-- ==== Sys2Proof/Word.lean ====
section
/-! DEFINITION. The word: the one scalar type of the engine (spec 00_scope.md R7, R14). Its width W is an argument
of the model. A word is held as the signed integer it is read as, so a word is an `Int` with `IsWord W`. -/

namespace Sys2Proof

/-- 2^(W-1): the words are the integers from -2^(W-1) to 2^(W-1) - 1 (R14). -/
def wordHalf (W : Nat) : Nat := 2 ^ (W - 1)

/-- `x` is a W-bit word, "read as a two's-complement signed integer in [-2^(W-1), 2^(W-1)-1]" (R14). -/
abbrev IsWord (W : Nat) (x : Int) : Prop := -(wordHalf W : Int) ≤ x ∧ x < wordHalf W

end Sys2Proof
end

