-- ==== Sys2Proof/Config.lean ====
section
/-! DEFINITION. The parameters of an engine (spec 00_scope.md R7 to R13): what its host fixes before a run and
what no step changes. -/

namespace Sys2Proof

/-- The 19 mnemonics of R2, in the order of the source's opcode table: the domain of OPCODE_VALUE (R12). -/
inductive Mnemonic where
  | const
  | add
  | sub
  | mul
  | lt
  | eq
  | jmp
  | jmpt
  | jmpf
  | gload
  | gstore
  | load
  | ldarg
  | store
  | call
  | ret
  | print
  | pop
  | halt
deriving DecidableEq, Repr

/-- Every mnemonic, in the table's order (R2, R66). -/
def Mnemonic.all : List Mnemonic :=
  [.const, .add, .sub, .mul, .lt, .eq, .jmp, .jmpt, .jmpf, .gload,
   .gstore, .load, .ldarg, .store, .call, .ret, .print, .pop, .halt]

/-- The parameter OPCODE_VALUE (R12): the word that encodes each opcode, one field a mnemonic. It is OPEN in the
spec (92_eei_decisions.md D3), so an engine carries the map it was built with. -/
structure OpcodeMap where
  const : Int
  add : Int
  sub : Int
  mul : Int
  lt : Int
  eq : Int
  jmp : Int
  jmpt : Int
  jmpf : Int
  gload : Int
  gstore : Int
  load : Int
  ldarg : Int
  store : Int
  call : Int
  ret : Int
  print : Int
  pop : Int
  halt : Int
deriving DecidableEq, Repr

/-- OPCODE_VALUE(m) (R12). -/
def OpcodeMap.value (om : OpcodeMap) : Mnemonic → Int
  | .const => om.const
  | .add => om.add
  | .sub => om.sub
  | .mul => om.mul
  | .lt => om.lt
  | .eq => om.eq
  | .jmp => om.jmp
  | .jmpt => om.jmpt
  | .jmpf => om.jmpf
  | .gload => om.gload
  | .gstore => om.gstore
  | .load => om.load
  | .ldarg => om.ldarg
  | .store => om.store
  | .call => om.call
  | .ret => om.ret
  | .print => om.print
  | .pop => om.pop
  | .halt => om.halt

/-- The default of W: "A model takes W as an argument with default 32" (R7). -/
def Config.wordBits : Nat := 32

/-- The parameters an engine is constructed with. The spec calls them parameters, not state (R23): they ride along
in `State` and every step leaves them as they are (log 5). -/
structure Params where
  /-- WORD_BITS, written W: the width of every word of the engine, 32 where its host names none (R7). -/
  wordBits : Nat := Config.wordBits
  /-- CODE, read-only during execution; N is its length (R10, R42). -/
  code : List Int
  /-- ENTRY_PC, any word (R11). -/
  entryPc : Int
  /-- STACK_CAPACITY, written C: the number of slots of the operand stack (R8). -/
  stackCapacity : Nat
  /-- DATA_SIZE, written D: the number of cells of the data memory (R9). -/
  dataSize : Nat
  /-- OPCODE_VALUE (R12). -/
  opcodes : OpcodeMap
deriving DecidableEq, Repr

/-- The default of C: "capacity = 100 in the reference sizing; must be configurable" (R8). -/
def Config.stackCapacity : Nat := 100

/-- The D of the reset state. The spec leaves it to the host (R9); 8 is the size its vectors assume
(95_test_vectors.md section 2). DESIGN CHOICE log 4. -/
def Config.dataSize : Nat := 8

/-- The ENTRY_PC of the reset state. The spec leaves it to the host (R11). DESIGN CHOICE log 4. -/
def Config.entryPc : Int := 0

end Sys2Proof
end

