-- ==== Sys2Proof/Syntax.lean ====
section
/-! DEFINITION. The instructions: one constructor per row of spec/opcode_table.json, in its order. -/

namespace Sys2Proof

/-- The 19 instructions (spec 00_scope.md R2), each with its immediates. An immediate is one whole code word
(30_encoding.md R65, R67), held as the signed integer it is (R67), and every word is a legal one (R68). -/
inductive Instr where
  /-- CONST value (R79) -/
  | const (value : Int)
  /-- ADD (R80) -/
  | add
  /-- SUB (R81) -/
  | sub
  /-- MUL (R82) -/
  | mul
  /-- LT: 1 if the first-pushed operand is the greater (R83) -/
  | lt
  /-- EQ (R84) -/
  | eq
  /-- JMP addr (R89) -/
  | jmp (addr : Int)
  /-- JMPT addr (R90) -/
  | jmpt (addr : Int)
  /-- JMPF addr (R91) -/
  | jmpf (addr : Int)
  /-- GLOAD: the address comes from the stack (R94) -/
  | gload
  /-- GSTORE addr: the address comes from the code (R95) -/
  | gstore (addr : Int)
  /-- LOAD offset (R96) -/
  | load (offset : Int)
  /-- LDARG offset (R97) -/
  | ldarg (offset : Int)
  /-- STORE offset (R98) -/
  | store (offset : Int)
  /-- CALL addr, argc (R103) -/
  | call (addr argc : Int)
  /-- RET (R105) -/
  | ret
  /-- PRINT (R112) -/
  | print
  /-- POP (R114) -/
  | pop
  /-- HALT (R115) -/
  | halt
deriving DecidableEq, Repr

end Sys2Proof
end

