-- ==== Sys2Proof/WellFormed.lean ====
section
/-! DEFINITION. Well-formedness: of instructions (their immediates are words, spec 30_encoding.md R68) and of the parameters
an engine is built with (00_scope.md R13). -/

namespace Sys2Proof

/-- The immediates of an instruction are W-bit words: "Every word value is a legal immediate at decode time. Range
checks happen at execution" (R68). Nothing else is ill-formed. -/
def Instr.wf (W : Nat) : Instr → Bool
  | .const value => decide (IsWord W value)
  | .add => true
  | .sub => true
  | .mul => true
  | .lt => true
  | .eq => true
  | .jmp addr => decide (IsWord W addr)
  | .jmpt addr => decide (IsWord W addr)
  | .jmpf addr => decide (IsWord W addr)
  | .gload => true
  | .gstore addr => decide (IsWord W addr)
  | .load offset => decide (IsWord W offset)
  | .ldarg offset => decide (IsWord W offset)
  | .store offset => decide (IsWord W offset)
  | .call addr argc => decide (IsWord W addr) && decide (IsWord W argc)
  | .ret => true
  | .print => true
  | .pop => true
  | .halt => true

/-- OPCODE_VALUE is injective (R12): the 19 values are pairwise different. -/
abbrev OpcodeMap.Injective (om : OpcodeMap) : Prop := (Mnemonic.all.map om.value).Nodup

/-- The constraints of R13, with C >= 1 (R8), the injectivity of R12, and every word given a W-bit word (R7, R11,
R12). They make every index the engine stores in a stack slot a word. -/
abbrev Params.InRange (p : Params) : Prop :=
  p.code.length ≤ wordHalf p.wordBits - 1 ∧ 1 ≤ p.stackCapacity ∧ p.stackCapacity ≤ wordHalf p.wordBits ∧
    p.dataSize ≤ wordHalf p.wordBits ∧ p.opcodes.Injective ∧
    (∀ m ∈ Mnemonic.all, IsWord p.wordBits (p.opcodes.value m)) ∧ IsWord p.wordBits p.entryPc ∧
    ∀ w ∈ p.code, IsWord p.wordBits w

/-- Parameters a host may construct an engine with: those of R13, and a CODE that is not empty (R10, R138). -/
abbrev Params.Wf (p : Params) : Prop := p.code ≠ [] ∧ p.InRange

end Sys2Proof
end

