-- ==== Sys2Proof/Decode.lean ====
section
/-! DEFINITION. Encoding tables, decoder and encoder (spec 30_encoding.md). CODE is a sequence of whole words, with
no bytes and no byte order (20_memory.md R53), so both work on lists of words. -/

namespace Sys2Proof

/-- The three formats (R64): how many immediate words follow the opcode word. -/
inductive Format where
  | f0
  | f1
  | f2
deriving DecidableEq, Repr

/-- An instruction's length in words, by its format (R64). -/
def Format.words : Format → Nat
  | .f0 => 1
  | .f1 => 2
  | .f2 => 3

/-- "The opcode alone decides the format" (R64, R73). -/
def Mnemonic.format : Mnemonic → Format
  | .const => .f1
  | .add => .f0
  | .sub => .f0
  | .mul => .f0
  | .lt => .f0
  | .eq => .f0
  | .jmp => .f1
  | .jmpt => .f1
  | .jmpf => .f1
  | .gload => .f0
  | .gstore => .f1
  | .load => .f1
  | .ldarg => .f1
  | .store => .f1
  | .call => .f2
  | .ret => .f0
  | .print => .f0
  | .pop => .f0
  | .halt => .f0

/-- The spec's default numbering of the opcodes (R66): the table's order, counted from 1. -/
def defaultOpcodes : OpcodeMap where
  const := 1
  add := 2
  sub := 3
  mul := 4
  lt := 5
  eq := 6
  jmp := 7
  jmpt := 8
  jmpf := 9
  gload := 10
  gstore := 11
  load := 12
  ldarg := 13
  store := 14
  call := 15
  ret := 16
  print := 17
  pop := 18
  halt := 19

/-- What a sequence of code words starts with. -/
inductive Decoded where
  /-- A whole instruction. -/
  | instr (i : Instr)
  /-- There is no word at all: the opcode fetch fails (20_memory.md R44). -/
  | noOpcode
  /-- The opcode word is no mnemonic's value (R71). -/
  | unknownOpcode
  /-- The opcode word is m's, and the words end before its immediates do (20_memory.md R44). -/
  | cutOff (m : Mnemonic)
deriving DecidableEq, Repr

/-- The mnemonic whose value the opcode word is (R69). The map is injective (R12), so there is at most one. In a map
that is not, the first in table order is taken (log 6). -/
def OpcodeMap.lookup (om : OpcodeMap) (op : Int) : Option Mnemonic :=
  Mnemonic.all.find? (fun m => om.value m == op)

/-- Format F0: no immediate (R64). -/
def readF0 (i : Instr) (_ : List Int) : Decoded := .instr i

/-- Format F1: one immediate, the whole next word (R64, R67). -/
def readF1 (m : Mnemonic) (f : Int → Instr) : List Int → Decoded
  | [] => .cutOff m
  | imm1 :: _ => .instr (f imm1)

/-- Format F2: two immediates, the two next words (R64, R67). -/
def readF2 (m : Mnemonic) (f : Int → Int → Instr) : List Int → Decoded
  | [] => .cutOff m
  | [_] => .cutOff m
  | imm1 :: imm2 :: _ => .instr (f imm1 imm2)

/-- The immediates of a mnemonic's instruction, read from the words after its opcode word (R64, R73). -/
def readImmediates : Mnemonic → List Int → Decoded
  | .const => readF1 .const .const
  | .add => readF0 .add
  | .sub => readF0 .sub
  | .mul => readF0 .mul
  | .lt => readF0 .lt
  | .eq => readF0 .eq
  | .jmp => readF1 .jmp .jmp
  | .jmpt => readF1 .jmpt .jmpt
  | .jmpf => readF1 .jmpf .jmpf
  | .gload => readF0 .gload
  | .gstore => readF1 .gstore .gstore
  | .load => readF1 .load .load
  | .ldarg => readF1 .ldarg .ldarg
  | .store => readF1 .store .store
  | .call => readF2 .call .call
  | .ret => readF0 .ret
  | .print => readF0 .print
  | .pop => readF0 .pop
  | .halt => readF0 .halt

/-- Decode (R69): the opcode word selects the mnemonic, and the immediates follow in order. -/
def decode (om : OpcodeMap) : List Int → Decoded
  | [] => .noOpcode
  | op :: rest =>
    match om.lookup op with
    | none => .unknownOpcode
    | some m => readImmediates m rest

/-- The mnemonic of an instruction (R73). -/
def Instr.mnemonic : Instr → Mnemonic
  | .const _ => .const
  | .add => .add
  | .sub => .sub
  | .mul => .mul
  | .lt => .lt
  | .eq => .eq
  | .jmp _ => .jmp
  | .jmpt _ => .jmpt
  | .jmpf _ => .jmpf
  | .gload => .gload
  | .gstore _ => .gstore
  | .load _ => .load
  | .ldarg _ => .ldarg
  | .store _ => .store
  | .call _ _ => .call
  | .ret => .ret
  | .print => .print
  | .pop => .pop
  | .halt => .halt

/-- The immediate words of an instruction, imm1 first (R64). -/
def Instr.immediates : Instr → List Int
  | .const value => [value]
  | .add => []
  | .sub => []
  | .mul => []
  | .lt => []
  | .eq => []
  | .jmp addr => [addr]
  | .jmpt addr => [addr]
  | .jmpf addr => [addr]
  | .gload => []
  | .gstore addr => [addr]
  | .load offset => [offset]
  | .ldarg offset => [offset]
  | .store offset => [offset]
  | .call addr argc => [addr, argc]
  | .ret => []
  | .print => []
  | .pop => []
  | .halt => []

/-- An instruction's length in words (R64). -/
def Instr.words (i : Instr) : Nat := i.mnemonic.format.words

/-- The words of an instruction: its opcode word, then its immediates (R63, R64, R75). -/
def encode (om : OpcodeMap) (i : Instr) : List Int := om.value i.mnemonic :: i.immediates

/-- The word in the W bits that start at bit `k` of a number, read as signed (R7, R14). -/
def wordAt (W k bits : Nat) : Int := (BitVec.ofNat W (bits / 2 ^ k)).toInt

/-- The three code words of an instruction given as one number: its first word is bits W-1..0, its second bits
2W-1..W, its third bits 3W-1..2W, and every bit from nbits up is 0. -/
def tableWords (W nbits w : Nat) : List Int :=
  let bits := w % 2 ^ nbits
  [wordAt W 0 bits, wordAt W W bits, wordAt W (2 * W) bits]

/-- The instruction the decoder reads, under the default width (R7) and numbering (R66), from an instruction given as
one number. -/
def decodeTableWord (nbits w : Nat) : Option Instr :=
  match decode defaultOpcodes (tableWords Config.wordBits nbits w) with
  | .instr i => some i
  | .noOpcode => none
  | .unknownOpcode => none
  | .cutOff _ => none

end Sys2Proof
end

