-- ==== Sys2Proof/Machine/State.lean ====
section
/-! DEFINITION. The architectural state (spec 10_state.md R23), the reasons a run or a step can end, and reset. -/

namespace Sys2Proof.Machine

/-- The five fault kinds of the engine (60_exceptions.md R118, R136). An instruction or the decode step raises one,
and the fault is TAKEN: the next state has status FAULTED (R123). Safe: the spec's own outcome. -/
inductive FaultKind where
  /-- A push on a full operand stack. Raised by CONST, LOAD, LDARG and CALL. -/
  | stackOverflow
  /-- A pop below the floor of the frame, a CALL whose argc fails ArgcOK, or a RET with no frame or a bad saved argc. -/
  | stackUnderflow
  /-- A data address outside [0, D-1], or a frame-relative stack read outside [0, sp]. -/
  | invalidMemoryAddress
  /-- A code fetch, or a control-transfer target, outside [0, N-1]. -/
  | invalidCodeAddress
  /-- An opcode word that is no mnemonic's value. Raised by the decode step. -/
  | unknownOpcode
deriving DecidableEq, Repr

/-- The run status (R27): RUNNING, HALTED, or FAULTED(kind, fpc). -/
inductive Status where
  | running
  | halted
  | faulted (kind : FaultKind) (fpc : Int)
deriving DecidableEq, Repr

/-- Why a step has no next state. These are NOT the spec's five faults, which are taken and lead to a next state
(`FaultKind`). Nothing here ends a run that the spec lets go on. -/
inductive Fault where
  /-- Raised by `step` in a state whose status is HALTED or FAULTED: "Step is defined only for RUNNING"
  (93_implementation_defined.md I15, treatment `stuck`; R116, R141). Safe: the spec gives such an engine no step. -/
  | notRunning
  /-- Raised by an access to an index of the operand stack outside 0..C-1, which does not exist (R28). The bounds of
  R36 exclude it in every state a run reaches. Safe: the model gives such an access no value (I2). -/
  | noSuchSlot
deriving DecidableEq, Repr

/-- Why the model declines to give a step. -/
inductive Refusal where
  /-- Raised by an arm of `exec` whose instruction has no meaning in the model. No arm does so. Safe: nothing is
  claimed of such a step. -/
  | notModelled (mnemonic : String)
deriving DecidableEq, Repr

/-- An array of words, indexed from 0: (index, word) pairs in one canonical form (`Memory.wf`), indices strictly
rising, and no word equal to the one an unlisted index reads as (`Memory.unlisted`). The spec has no bytes
(20_memory.md R53), so a cell is a word (log 2). -/
structure Memory where
  cells : List (Nat × Int)
deriving DecidableEq, Repr

/-- The architectural state of the engine (R23), and the parameters it runs with (log 5). -/
structure State where
  /-- The program counter: the index into CODE of the next instruction (R24). -/
  pc : Int
  /-- The stack pointer: the index of the top occupied slot, -1 when the stack is empty (R25). -/
  sp : Int
  /-- The frame pointer: the index of the saved-pc word of the active frame, 0 at top level (R26). -/
  fp : Int
  /-- S, the operand stack (R28). -/
  stack : Memory
  /-- M, the data memory (R29). -/
  data : Memory
  /-- OUT, the words printed so far, the oldest first (R30). -/
  out : List Int
  /-- The run status (R27). -/
  status : Status
  /-- W, CODE, ENTRY_PC, C, D and OPCODE_VALUE: fixed for the run (R7 to R12). -/
  params : Params
deriving DecidableEq, Repr

/-- The state right after construction with given parameters (R39, R137). The spec leaves the contents of S
unspecified (92_eei_decisions.md D17): every slot reads as 0 here. DESIGN CHOICE log 3. -/
def State.construct (p : Params) : State where
  pc := p.entryPc
  sp := -1
  fp := 0
  stack := { cells := [] }
  data := { cells := [] }
  out := []
  status := .running
  params := p

/-- The parameters of the reset state: the spec's defaults where it gives them (W, C, OPCODE_VALUE), and no program
loaded. DESIGN CHOICE log 4. -/
def resetParams : Params where
  wordBits := Config.wordBits
  code := []
  entryPc := Config.entryPc
  stackCapacity := Config.stackCapacity
  dataSize := Config.dataSize
  opcodes := defaultOpcodes

/-- The engine right after reset (R39), before its host has given it a program (log 4). -/
def State.reset : State := State.construct resetParams

end Sys2Proof.Machine
end

