-- ==== Sys2Proof/Machine/Ops.lean ====
section
/-! DEFINITION. The operations every meaning is built from: memories, the primitives of spec 20_memory.md, the target
check, and taking a fault. -/

namespace Sys2Proof.Machine

/-- What an index that is not listed reads as: 0, the reset value of every cell of M (R29). For S the spec gives no
value. DESIGN CHOICE log 3. -/
def Memory.unlisted : Int := 0

/-- The word at an index of a rising list of cells. -/
def cellsRead : List (Nat × Int) → Nat → Int
  | [], _ => Memory.unlisted
  | (k, x) :: rest, a => if k = a then x else cellsRead rest a

/-- A rising list of cells with the word at one index replaced. Writing the unlisted word removes the cell. -/
def cellsWrite : List (Nat × Int) → Nat → Int → List (Nat × Int)
  | [], a, v => if v = Memory.unlisted then [] else [(a, v)]
  | (k, x) :: rest, a, v =>
    if a < k then (if v = Memory.unlisted then (k, x) :: rest else (a, v) :: (k, x) :: rest)
    else if a = k then (if v = Memory.unlisted then rest else (a, v) :: rest)
    else (k, x) :: cellsWrite rest a v

/-- The word at index `a` (R41: one cell, one word). -/
def Memory.read (m : Memory) (a : Nat) : Int := cellsRead m.cells a

/-- The memory with word `v` at index `a`. -/
def Memory.write (m : Memory) (a : Nat) (v : Int) : Memory := { cells := cellsWrite m.cells a v }

/-- The canonical form: indices strictly rising, and no cell that holds the unlisted word. Equal memories are then
equal data. -/
abbrev Memory.wf (m : Memory) : Prop :=
  m.cells.Pairwise (fun c d => c.1 < d.1) ∧ ∀ c ∈ m.cells, c.2 ≠ Memory.unlisted

/-- Every listed index is one of the `n` that exist (R28, R29). -/
abbrev Memory.below (m : Memory) (n : Nat) : Prop := ∀ c ∈ m.cells, c.1 < n

/-- N, the number of code words (R10). -/
def State.codeSize (s : State) : Nat := s.params.code.length

/-- Why an instruction's pseudocode does not run to its end. -/
inductive Stop where
  /-- `raise K` (R17). -/
  | raised (k : FaultKind)
  /-- An access the spec gives no meaning to. -/
  | stuck (f : Fault)
deriving DecidableEq, Repr

/-- `if not c then raise k` (R17). -/
def require (c : Prop) [Decidable c] (k : FaultKind) : Except Stop Unit :=
  if c then .ok () else .error (.raised k)

/-- Taking a fault (R17, R120, R123): the state before the instruction, with status FAULTED(k, ia). The state passed
in is that one, so its pc is ia. Nothing is saved, no mode changes and control goes to no handler (R123). The spec
gives no return from a fault (R124), so no operation stands beside this one. -/
def takeFault (k : FaultKind) (s : State) : State := { s with status := .faulted k s.pc }

/-- The end of an instruction begun in state `s` (R17): it commits every effect of its pseudocode, or it takes the
first fault raised and commits none. -/
def commit (s : State) : Except Stop State → Host.Outcome State Fault Refusal
  | .ok t => .next t
  | .error (.raised k) => .next (takeFault k s)
  | .error (.stuck f) => .fault f

/-- The state after the engine has fetched the `n` words of an instruction (R18): pc = ia + n. It does not wrap (R24). -/
def fetched (n : Nat) (s : State) : State := { s with pc := s.pc + n }

/-- floor(fp), the lowest stack index Pop may take (R46): 0 at top level, fp + 1 in a callee. -/
def floorOf (fp : Int) : Int := if fp = 0 then 0 else fp + 1

/-- Slot i of S is one of the C that exist (R28). -/
abbrev State.hasSlot (s : State) (i : Int) : Prop := 0 ≤ i ∧ i < s.params.stackCapacity

/-- S[i], an array access (R28). An index outside the array has no value (I2). -/
def slot (i : Int) (s : State) : Except Stop Int :=
  if s.hasSlot i then .ok (s.stack.read i.toNat) else .error (.stuck .noSuchSlot)

/-- S[i] <- v, an array access (R28). -/
def setSlot (i : Int) (v : Int) (s : State) : Except Stop State :=
  if s.hasSlot i then .ok { s with stack := s.stack.write i.toNat v } else .error (.stuck .noSuchSlot)

/-- Push(v) (R47). -/
def push (v : Int) (s : State) : Except Stop State := do
  require (s.sp + 1 < s.params.stackCapacity) .stackOverflow
  let s1 ← setSlot (s.sp + 1) v s
  return { s1 with sp := s.sp + 1 }

/-- Pop() (R48). The slot is not cleared. -/
def pop (s : State) : Except Stop (Int × State) := do
  require (floorOf s.fp ≤ s.sp) .stackUnderflow
  let v ← slot s.sp s
  return (v, { s with sp := s.sp - 1 })

/-- StackRead(i) (R49): a read of an occupied slot, which leaves sp as it is. -/
def stackRead (i : Int) (s : State) : Except Stop Int := do
  require (0 ≤ i ∧ i ≤ s.sp) .invalidMemoryAddress
  slot i s

/-- Address a of M is one of the D that exist (R50). -/
abbrev State.hasCell (s : State) (a : Int) : Prop := 0 ≤ a ∧ a < s.params.dataSize

/-- MemRead(a, 1) (R51). -/
def memRead (a : Int) (s : State) : Except Stop Int := do
  require (s.hasCell a) .invalidMemoryAddress
  return s.data.read a.toNat

/-- MemWrite(a, 1, v) (R52). -/
def memWrite (a : Int) (v : Int) (s : State) : Except Stop State := do
  require (s.hasCell a) .invalidMemoryAddress
  return { s with data := s.data.write a.toNat v }

/-- The index t is one of the N of CODE (R10, R41). -/
abbrev State.inCode (s : State) (t : Int) : Prop := 0 ≤ t ∧ t < s.codeSize

/-- CheckTarget(t) (R87), and then pc <- t: what every control transfer does. -/
def transfer (t : Int) (s : State) : Except Stop State := do
  require (s.inCode t) .invalidCodeAddress
  return { s with pc := t }

end Sys2Proof.Machine
end

