-- ==== Sys2Proof/Machine/Flags.lean ====
section
/-! DEFINITION. Truth values. The engine has no flags, condition codes or predicates (spec 10_state.md R32):
a compare leaves the word 1 or 0 on the stack, and a conditional branch tests a popped word. -/

namespace Sys2Proof.Machine

/-- "A comparison result is exactly the word 1 or the word 0" (R86). -/
def truthWord (b : Bool) : Int := if b then 1 else 0

/-- "A word v is truthy when v != 0 and falsy when v = 0" (R88). -/
def truthy (v : Int) : Bool := v != 0

end Sys2Proof.Machine
end

