-- ==== Sys2Proof/Machine/Operands.lean ====
section
/-! DEFINITION. Operand forms: the arithmetic of values, the binary operand protocol, and the addressing modes of
spec 42_load_store.md R93. -/

namespace Sys2Proof.Machine

/-- wrap_W(x): the word congruent to x modulo 2^W (00_scope.md R14), as the signed reading of the low W bits of x. -/
def wrapW (W : Nat) (x : Int) : Int := (BitVec.ofInt W x).toInt

/-- The binary operand protocol (R78): b is popped first and a second, and the one result is pushed. So a is the
value that was pushed first. -/
def binary (f : Int → Int → Int) (s : State) : Except Stop State := do
  let (b, s1) ← pop s
  let (a, s2) ← pop s1
  push (f a b) s2

/-- Frame-relative up (R93): fp + imm1, a mathematical integer that never wraps (R19). -/
def frameUp (s : State) (offset : Int) : Int := s.fp + offset

/-- Frame-relative argument (R93): fp - 3 - imm1, a mathematical integer that never wraps (R19). -/
def frameArg (s : State) (offset : Int) : Int := s.fp - 3 - offset

/-- Stack-absolute and immediate-absolute (R93): the word itself, read as a signed integer (R67). -/
def absolute (addr : Int) : Int := addr

end Sys2Proof.Machine
end

