-- ==== Sys2Proof/Machine/Arith.lean ====
section
/-! DEFINITION. CONST, the arithmetic and the compares (spec 40_arith.md). -/

namespace Sys2Proof.Machine

/-- CONST value (R79). -/
def execConst (value : Int) (s : State) : Host.Outcome State Fault Refusal :=
  commit s (push value (fetched 2 s))

/-- ADD: wrap_W(a + b) (R77, R80). -/
def execAdd (s : State) : Host.Outcome State Fault Refusal :=
  commit s (binary (fun a b => wrapW s.params.wordBits (a + b)) (fetched 1 s))

/-- SUB: wrap_W(a - b) (R77, R81). -/
def execSub (s : State) : Host.Outcome State Fault Refusal :=
  commit s (binary (fun a b => wrapW s.params.wordBits (a - b)) (fetched 1 s))

/-- MUL: wrap_W(a * b) (R77, R82). -/
def execMul (s : State) : Host.Outcome State Fault Refusal :=
  commit s (binary (fun a b => wrapW s.params.wordBits (a * b)) (fetched 1 s))

/-- LT: 1 if a > b, signed, where a was pushed first (R83, 90_conflicts.md C1). -/
def execLt (s : State) : Host.Outcome State Fault Refusal :=
  commit s (binary (fun a b => truthWord (decide (a > b))) (fetched 1 s))

/-- EQ: 1 if a = b, whole words (R84). -/
def execEq (s : State) : Host.Outcome State Fault Refusal :=
  commit s (binary (fun a b => truthWord (decide (a = b))) (fetched 1 s))

end Sys2Proof.Machine
end

