-- ==== Sys2Proof/Machine/Branch.lean ====
section
/-! DEFINITION. The branches (spec 41_branch.md). A target is an absolute code index, checked only when the transfer
is taken (R87, R92). -/

namespace Sys2Proof.Machine

/-- JMP addr (R89). -/
def execJmp (addr : Int) (s : State) : Host.Outcome State Fault Refusal :=
  commit s (transfer addr (fetched 2 s))

/-- JMPT addr (R90): v is popped whether or not the jump is taken. -/
def execJmpt (addr : Int) (s : State) : Host.Outcome State Fault Refusal :=
  commit s (do
    let (v, s1) ← pop (fetched 2 s)
    if truthy v then transfer addr s1 else return s1)

/-- JMPF addr (R91): v is popped whether or not the jump is taken. -/
def execJmpf (addr : Int) (s : State) : Host.Outcome State Fault Refusal :=
  commit s (do
    let (v, s1) ← pop (fetched 2 s)
    if truthy v then return s1 else transfer addr s1)

end Sys2Proof.Machine
end

