-- ==== Sys2Proof/Machine/CallReturn.lean ====
section
/-! DEFINITION. The calling convention (spec 43_call_return.md). -/

namespace Sys2Proof.Machine

/-- ArgcOK(n): the caller's frame holds n arguments (R102). -/
abbrev argcOk (n : Int) (s : State) : Prop := 0 ≤ n ∧ n ≤ s.sp + 1 - floorOf s.fp

/-- The three frame words of a CALL, argc, the caller's fp and the return address, and then fp <- sp (R100, R103). -/
def pushFrame (argc : Int) (s : State) : Except Stop State := do
  let s1 ← push argc s
  let s2 ← push s.fp s1
  let s3 ← push s.pc s2
  return { s3 with fp := s3.sp }

/-- CALL addr, argc (R103). The return address is pc after both immediates, ia + 3. -/
def execCall (addr argc : Int) (s : State) : Host.Outcome State Fault Refusal :=
  commit s (do
    require (argcOk argc (fetched 3 s)) .stackUnderflow
    let s1 ← pushFrame argc (fetched 3 s)
    transfer addr s1)

/-- The three frame words of the active frame (R100, R105). -/
structure Frame where
  retPc : Int
  oldFp : Int
  argc : Int
deriving DecidableEq, Repr

/-- RET's reads of the frame words at fp, fp - 1 and fp - 2 (R105). They are exempt from the floor. -/
def readFrame (s : State) : Except Stop Frame := do
  let retPc ← slot s.fp s
  let oldFp ← slot (s.fp - 1) s
  let argc ← slot (s.fp - 2) s
  return { retPc := retPc, oldFp := oldFp, argc := argc }

/-- The unwinding of the active frame (R105), in RET's own order: the return value is popped, the frame is read and
checked, the target is checked, and the return value is left in place of the arguments. -/
def unwindFrame (s : State) : Except Stop State := do
  let (rval, s1) ← pop s
  require (2 ≤ s.fp) .stackUnderflow
  let f ← readFrame s
  require (0 ≤ f.argc ∧ floorOf f.oldFp - 1 ≤ s.fp - 3 - f.argc) .stackUnderflow
  let s2 ← transfer f.retPc s1
  push rval { s2 with sp := s.fp - 3 - f.argc, fp := f.oldFp }

/-- RET (R105). -/
def execRet (s : State) : Host.Outcome State Fault Refusal :=
  commit s (unwindFrame (fetched 1 s))

end Sys2Proof.Machine
end

