-- ==== Sys2Proof/Machine/LoadStore.lean ====
section
/-! DEFINITION. Loads and stores (spec 42_load_store.md). -/

namespace Sys2Proof.Machine

/-- GLOAD: the data address is popped from the stack (R94). -/
def execGload (s : State) : Host.Outcome State Fault Refusal :=
  commit s (do
    let (a, s1) ← pop (fetched 1 s)
    let v ← memRead (absolute a) s1
    push v s1)

/-- GSTORE addr: the data address is the immediate (R95). -/
def execGstore (addr : Int) (s : State) : Host.Outcome State Fault Refusal :=
  commit s (do
    let (v, s1) ← pop (fetched 2 s)
    memWrite (absolute addr) v s1)

/-- LOAD offset: push S[fp + offset] (R96). -/
def execLoad (offset : Int) (s : State) : Host.Outcome State Fault Refusal :=
  commit s (do
    let v ← stackRead (frameUp s offset) (fetched 2 s)
    push v (fetched 2 s))

/-- LDARG offset: push S[fp - 3 - offset] (R97). -/
def execLdarg (offset : Int) (s : State) : Host.Outcome State Fault Refusal :=
  commit s (do
    let v ← stackRead (frameArg s offset) (fetched 2 s)
    push v (fetched 2 s))

/-- STORE offset: pop a value into DATA MEMORY at fp + offset, not into the stack (R98, R99; 90_conflicts.md C5, C7). -/
def execStore (offset : Int) (s : State) : Host.Outcome State Fault Refusal :=
  commit s (do
    let (v, s1) ← pop (fetched 2 s)
    memWrite (frameUp s offset) v s1)

end Sys2Proof.Machine
end

