-- ==== Sys2Proof/Machine/StackIoHalt.lean ====
section
/-! DEFINITION. Output, stack discard and halt (spec 44_stack_io_halt.md). -/

namespace Sys2Proof.Machine

/-- PRINT: pop a word and append it to OUT (R112). -/
def execPrint (s : State) : Host.Outcome State Fault Refusal :=
  commit s (do
    let (v, s1) ← pop (fetched 1 s)
    return { s1 with out := s1.out ++ [v] })

/-- POP: discard the top of the stack (R114). -/
def execPop (s : State) : Host.Outcome State Fault Refusal :=
  commit s (do
    let (_, s1) ← pop (fetched 1 s)
    return s1)

/-- HALT: status <- HALTED, and pc stays where the opcode fetch left it (R115). -/
def execHalt (s : State) : Host.Outcome State Fault Refusal :=
  commit s (.ok { fetched 1 s with status := .halted })

end Sys2Proof.Machine
end

