-- ==== Sys2Proof/Machine/Dispatch.lean ====
section
/-! DEFINITION. One arm per instruction: execute the rule of its mnemonic (spec 70_reset_and_hazards.md R141). -/

namespace Sys2Proof.Machine

def exec (i : Instr) (s : State) : Host.Outcome State Fault Refusal :=
  match i with
  | .const value => Sys2Proof.Machine.execConst value s
  | .add => Sys2Proof.Machine.execAdd s
  | .sub => Sys2Proof.Machine.execSub s
  | .mul => Sys2Proof.Machine.execMul s
  | .lt => Sys2Proof.Machine.execLt s
  | .eq => Sys2Proof.Machine.execEq s
  | .jmp addr => Sys2Proof.Machine.execJmp addr s
  | .jmpt addr => Sys2Proof.Machine.execJmpt addr s
  | .jmpf addr => Sys2Proof.Machine.execJmpf addr s
  | .gload => Sys2Proof.Machine.execGload s
  | .gstore addr => Sys2Proof.Machine.execGstore addr s
  | .load offset => Sys2Proof.Machine.execLoad offset s
  | .ldarg offset => Sys2Proof.Machine.execLdarg offset s
  | .store offset => Sys2Proof.Machine.execStore offset s
  | .call addr argc => Sys2Proof.Machine.execCall addr argc s
  | .ret => Sys2Proof.Machine.execRet s
  | .print => Sys2Proof.Machine.execPrint s
  | .pop => Sys2Proof.Machine.execPop s
  | .halt => Sys2Proof.Machine.execHalt s

end Sys2Proof.Machine
end

