-- ==== Sys2Proof/Machine/Fetch.lean ====
section
/-! DEFINITION. The fetch: FetchCode (spec 20_memory.md R44), the decode of the words at pc (30_encoding.md R69), and
the faults of a fetch that yields no whole instruction. -/

namespace Sys2Proof.Machine

/-- FetchCode() (R44): the code word at pc, and pc advanced past it. -/
def fetchCode (s : State) : Except Stop (Int × State) := do
  require (s.inCode s.pc) .invalidCodeAddress
  return (s.params.code.getD s.pc.toNat 0, { s with pc := s.pc + 1 })

/-- n FetchCode()s in a row: the n words at pc. -/
def fetchWords : Nat → State → Except Stop (List Int × State)
  | 0, s => .ok ([], s)
  | n + 1, s => do
    let (w, s1) ← fetchCode s
    let (ws, s2) ← fetchWords n s1
    return (w :: ws, s2)

/-- What CODE holds at pc (R69). A pc outside [0, N-1] has no opcode word (R44). -/
def fetchDecode (s : State) : Decoded :=
  if s.inCode s.pc then decode s.params.opcodes (s.params.code.drop s.pc.toNat) else .noOpcode

/-- The opcode fetch fails (R44): InvalidCodeAddress, with fpc the pc it was attempted at (R120). -/
def execNoOpcode (s : State) : Host.Outcome State Fault Refusal :=
  commit s (.error (.raised .invalidCodeAddress))

/-- No mnemonic has this value (R71). -/
def execUnknownOpcode (s : State) : Host.Outcome State Fault Refusal :=
  commit s (.error (.raised .unknownOpcode))

/-- The mnemonics whose rule pops before it fetches its immediate (R95, R98; the order SU, IC of R119). -/
def popsBeforeImmediate : Mnemonic → Bool
  | .const => false
  | .add => false
  | .sub => false
  | .mul => false
  | .lt => false
  | .eq => false
  | .jmp => false
  | .jmpt => false
  | .jmpf => false
  | .gload => false
  | .gstore => true
  | .load => false
  | .ldarg => false
  | .store => true
  | .call => false
  | .ret => false
  | .print => false
  | .pop => false
  | .halt => false

/-- The rule of an instruction whose immediates the end of CODE cuts off: it runs to the immediate fetch, which raises
InvalidCodeAddress (R44). A pop that its pseudocode puts before that fetch is checked first (R119, R122). -/
def execCutOff (m : Mnemonic) (s : State) : Host.Outcome State Fault Refusal :=
  commit s (do
    if popsBeforeImmediate m then
      let _ ← pop (fetched 1 s)
    .error (.raised .invalidCodeAddress))

/-- A code array with the given words at index `at_`, filled with zeros where it was too short. -/
def placeWords (code : List Int) (at_ : Nat) (ws : List Int) : List Int :=
  (code ++ List.replicate (at_ - code.length) 0).take at_ ++ ws ++ code.drop (at_ + ws.length)

/-- The state with the given words in CODE at pc, and ready to fetch them: RUNNING, and pc not negative. -/
def placeAtPc (ws : List Int) (s : State) : State :=
  let pc := if s.pc < 0 then 0 else s.pc
  { s with
    pc := pc
    status := .running
    params := { s.params with code := placeWords s.params.code pc.toNat ws } }

end Sys2Proof.Machine
end

