-- ==== Sys2Proof/Machine/Step.lean ====
section
/-! DEFINITION. One step of the engine (spec 70_reset_and_hazards.md R141), and a state with one instruction placed at
its fetch. -/

namespace Sys2Proof.Machine

/-- Step() (R141), defined only while the status is RUNNING (93_implementation_defined.md I15). -/
def step (s : State) : Host.Outcome State Fault Refusal :=
  match s.status with
  | .running =>
    match fetchDecode s with
    | .instr i => exec i s
    | .noOpcode => execNoOpcode s
    | .unknownOpcode => execUnknownOpcode s
    | .cutOff m => execCutOff m s
  | .halted => .fault .notRunning
  | .faulted _ _ => .fault .notRunning

/-- `s` with the instruction of `w` (its bits from `nbits` up zero, up to three words of the engine's width) in CODE at
pc, so that the next step fetches it. It stands for the host's loading of a program (log 4). -/
def State.withFetchWord (s : State) (nbits w : Nat) : State := placeAtPc (tableWords s.params.wordBits nbits w) s

end Sys2Proof.Machine
end

