-- ==== Sys2Proof/Machine/Assembler.lean ====
section
/-! DEFINITION. The translation of a listing into code words (spec 30_encoding.md R74, R75). A listing is given here as
data: reading its text is out of scope (00_scope.md R5). -/

namespace Sys2Proof.Machine

/-- An operand: "a signed decimal integer or a label" (R74). -/
inductive AsmOperand where
  | number (n : Int)
  | label (name : String)
deriving DecidableEq, Repr

/-- A line of a listing (R74): a label of its own, or a mnemonic with its operands in the order of R73. -/
inductive AsmLine where
  | label (name : String)
  | instr (m : Mnemonic) (operands : List AsmOperand)
deriving DecidableEq, Repr

/-- An assembly error. -/
inductive AsmError where
  /-- "Operand counts must match rule R64 exactly" (R74). -/
  | operandCount (m : Mnemonic)
  /-- "An operand that does not fit in a W-bit word is an assembly error" (R75). -/
  | operandTooLarge (n : Int)
  /-- A label that no line defines. DESIGN CHOICE log 8. -/
  | unknownLabel (name : String)
  /-- A label that two lines define. DESIGN CHOICE log 8. -/
  | duplicateLabel (name : String)
deriving DecidableEq, Repr

/-- The line of an instruction, its immediates written as signed decimal integers (R74). -/
def asmLineOf (i : Instr) : AsmLine := .instr i.mnemonic (i.immediates.map (fun w => .number w))

/-- How many code words a line stands for (R64, R74). -/
def AsmLine.words : AsmLine → Nat
  | .label _ => 0
  | .instr m _ => m.format.words

/-- The labels of a listing whose first word has code index `next`: a label's value is "the code index of the next
word" (R74). -/
def asmLabels : Nat → List AsmLine → List (String × Nat)
  | _, [] => []
  | next, .label name :: rest => (name, next) :: asmLabels next rest
  | next, .instr m _ :: rest => asmLabels (next + m.format.words) rest

/-- The value of a label. -/
def asmLabelValue (labels : List (String × Nat)) (name : String) : Except AsmError Int :=
  match labels.filter (fun l => l.1 == name) with
  | [] => .error (.unknownLabel name)
  | [l] => .ok (l.2 : Int)
  | _ :: _ :: _ => .error (.duplicateLabel name)

/-- An operand as a W-bit word (R75). -/
def asmWord (W : Nat) (labels : List (String × Nat)) (op : AsmOperand) : Except AsmError Int := do
  let n ← match op with
    | .number n => .ok n
    | .label name => asmLabelValue labels name
  if IsWord W n then return n else .error (.operandTooLarge n)

/-- The operands of a line as words, in order (R75). -/
def asmWords (W : Nat) (labels : List (String × Nat)) : List AsmOperand → Except AsmError (List Int)
  | [] => .ok []
  | op :: rest => do
    let w ← asmWord W labels op
    let ws ← asmWords W labels rest
    return w :: ws

/-- One line: OPCODE_VALUE(mnemonic), followed by its operands as words (R75). -/
def asmLine (W : Nat) (om : OpcodeMap) (labels : List (String × Nat)) : AsmLine → Except AsmError (List Int)
  | .label _ => .ok []
  | .instr m operands => do
    let ws ← asmWords W labels operands
    if ws.length + 1 = m.format.words then return om.value m :: ws else .error (.operandCount m)

/-- The lines of a listing, laid out back to back (R63, R75). -/
def asmLines (W : Nat) (om : OpcodeMap) (labels : List (String × Nat)) : List AsmLine → Except AsmError (List Int)
  | [] => .ok []
  | line :: rest => do
    let ws ← asmLine W om labels line
    let more ← asmLines W om labels rest
    return ws ++ more

/-- A listing as CODE, in words of W bits (32 if none is given, R7). -/
def asmProgram (om : OpcodeMap) (lines : List AsmLine) (W : Nat := Config.wordBits) :
    Except AsmError (List Int) :=
  asmLines W om (asmLabels 0 lines) lines

end Sys2Proof.Machine
end

