-- ==== Sys2Proof/Machine/Run.lean ====
section
/-! DEFINITION. The engine's interface to its host (spec 70_reset_and_hazards.md): construction, the run loop under a
step budget, the result of a run, and how the host sees the output. -/

namespace Sys2Proof.Machine

/-- Why construction fails. It is not one of the five faults, and no engine exists after it (R138). -/
inductive InitError where
  | initError
deriving DecidableEq, Repr

/-- init(CODE, ENTRY_PC, D) of an engine whose words have W bits (32 if none is given, R7), whose stack has C slots
and whose opcodes are numbered by `om` (R137, R138).
ENTRY_PC is not checked. The constraints of R13 are the host's duty (`Params.InRange`, log 6). -/
def init (om : OpcodeMap) (stackCapacity : Nat) (code : List Int) (entryPc : Int) (localsSize : Int)
    (wordBits : Nat := Config.wordBits) : Except InitError State :=
  if code.length = 0 ∨ localsSize < 0 then .error .initError
  else .ok (State.construct
    { wordBits := wordBits
      code := code
      entryPc := entryPc
      stackCapacity := stackCapacity
      dataSize := localsSize.toNat
      opcodes := om })

/-- run(engine), stopped by the host after at most `budget` steps (R140, R144): Step repeated while the status is
RUNNING. The state is the one after the last completed step. -/
def run : Nat → State → State
  | 0, s => s
  | budget + 1, s =>
    match s.status with
    | .running =>
      match step s with
      | .next t => run budget t
      | .fault _ => s
      | .refused _ => s
    | .halted => s
    | .faulted _ _ => s

/-- What run gives back to the host (R125, R144, R146). -/
inductive RunResult where
  /-- The status became HALTED. -/
  | success
  /-- The status became FAULTED(kind, fpc). -/
  | failure (kind : FaultKind) (fpc : Int)
  /-- The host's budget ran out before the run ended: "neither Success nor a fault" (R144). -/
  | noResult
deriving DecidableEq, Repr

/-- The result a state's status stands for (R125, R142). -/
def State.result (s : State) : RunResult :=
  match s.status with
  | .running => .noResult
  | .halted => .success
  | .faulted k fpc => .failure k fpc

/-- The numeric cause code of a fault kind (60_exceptions.md R118, 92_eei_decisions.md D15). -/
def FaultKind.code : FaultKind → Nat
  | .stackOverflow => 1
  | .stackUnderflow => 2
  | .invalidMemoryAddress => 3
  | .invalidCodeAddress => 4
  | .unknownOpcode => 5

/-- The cause code of a status, 0 meaning "no fault" (R118). -/
def Status.code : Status → Nat
  | .running => 0
  | .halted => 0
  | .faulted k _ => k.code

/-- The line the host sees for one element of OUT (44_stack_io_halt.md R113): `-` and the digits for a negative word,
the digits otherwise, then LF. -/
def renderWord (v : Int) : String :=
  (if v < 0 then "-" else "") ++ v.natAbs.repr ++ "\n"

/-- The text on the output channel: one line per element of OUT, in order (R30, R113). -/
def State.outputText (s : State) : String := String.join (s.out.map renderWord)

end Sys2Proof.Machine
end

