-- ==== Sys2Proof/Safety.lean ====
section
/-! DEFINITION. The terms claims are stated in: the bounds and invariants of spec 10_state.md R36 to R38, what an
instruction leaves alone, the fault table of 60_exceptions.md R119, and paths of steps. -/

namespace Sys2Proof.Machine

/-- The values the active frame may pop: those from its floor up (R46). -/
abbrev State.poppable (s : State) : Int := s.sp + 1 - floorOf s.fp

/-- The word `k` slots below the top of the stack; `k = 0` is the top itself (R25). -/
abbrev State.top (s : State) (k : Int) : Int := s.stack.read (s.sp - k).toNat

/-- The bounds on sp and fp of R36, over parameters that meet R13 and memories in their canonical form. -/
abbrev State.Sound (s : State) : Prop :=
  s.params.InRange ∧ -1 ≤ s.sp ∧ s.sp < s.params.stackCapacity ∧ (s.fp = 0 ∨ 2 ≤ s.fp) ∧
    floorOf s.fp - 1 ≤ s.sp ∧ s.stack.wf ∧ s.data.wf

/-- wrap_W by the formula of R14: the integer in [-2^(W-1), 2^(W-1)-1] congruent to x modulo 2^W. -/
def wrapInt (W : Nat) (x : Int) : Int := (x + wordHalf W) % 2 ^ W - wordHalf W

/-- The frame chain that starts at a frame pointer (R108), in a stack `st` over a CODE of `n` words: each frame's
words are ones a CALL can have pushed (R100, R102). The chain ends at fp = 0 (R110). -/
inductive Frames (n : Nat) (st : Memory) : Int → Prop where
  | top : Frames n st 0
  | callee (fp : Int) (callable : 2 ≤ fp)
      (argc : 0 ≤ st.read (fp - 2).toNat)
      (within : floorOf (st.read (fp - 1).toNat) - 1 ≤ fp - 3 - st.read (fp - 2).toNat)
      (retPc : 0 ≤ st.read fp.toNat ∧ st.read fp.toNat ≤ n)
      (caller : Frames n st (st.read (fp - 1).toNat)) : Frames n st fp

/-- Every cell of the memory holds a W-bit word (R28, R29). -/
abbrev Memory.words (W : Nat) (m : Memory) : Prop := ∀ c ∈ m.cells, IsWord W c.2

/-- Every word of the state has the W bits of the engine: "Every code word, stack slot, data-memory cell, immediate and
arithmetic result is a W-bit value" (R7; R24, R26, R30). The words of CODE are `Params.InRange`'s. -/
abbrev State.Words (s : State) : Prop :=
  IsWord s.params.wordBits s.pc ∧ IsWord s.params.wordBits s.fp ∧ s.stack.words s.params.wordBits ∧
    s.data.words s.params.wordBits ∧ ∀ w ∈ s.out, IsWord s.params.wordBits w

/-- The invariant of the machine: the bounds of R36, every word a W-bit word (R7), the frame chain of R38 (b) and R108,
only cells that exist (R28, R29), the pc bounds of R37 (or the entry pc, which the host chooses), and pc = fpc after a
fault (R120). -/
structure State.Inv (s : State) : Prop where
  sound : s.Sound
  words : s.Words
  frames : Frames s.codeSize s.stack s.fp
  stackBelow : s.stack.below s.params.stackCapacity
  dataBelow : s.data.below s.params.dataSize
  pcInCode : s.pc = s.params.entryPc ∨ (0 ≤ s.pc ∧ s.pc ≤ s.codeSize)
  faultPc : ∀ k fpc, s.status = .faulted k fpc → fpc = s.pc

/-- What an instruction that only moves pc and sp leaves alone outside the two memories. -/
abbrev Moves (s t : State) (pc sp : Int) : Prop :=
  t.pc = pc ∧ t.sp = sp ∧ t.fp = s.fp ∧ t.out = s.out ∧ t.status = s.status ∧ t.params = s.params

/-- Every stack slot but slot `i` reads as before. -/
def StackSameBut (i : Int) (s t : State) : Prop := ∀ j : Nat, (j : Int) ≠ i → t.stack.read j = s.stack.read j

/-- Every stack slot reads as before. -/
def StackSame (s t : State) : Prop := ∀ j : Nat, t.stack.read j = s.stack.read j

/-- Every data cell but cell `a` reads as before. -/
def DataSameBut (a : Int) (s t : State) : Prop := ∀ b : Nat, (b : Int) ≠ a → t.data.read b = s.data.read b

/-- Every data cell reads as before. -/
def DataSame (s t : State) : Prop := ∀ b : Nat, t.data.read b = s.data.read b

/-- The next state is the state before, but for status FAULTED(k, pc) (R120, R121). -/
abbrev FaultedFrom (k : FaultKind) (s : State) : State := { s with status := .faulted k s.pc }

/-- The words of `i` stand in CODE at pc, and the engine is RUNNING. -/
def State.Holds (s : State) (i : Instr) : Prop :=
  s.status = .running ∧ 0 ≤ s.pc ∧
    ∃ rest, s.params.code.drop s.pc.toNat = encode s.params.opcodes i ++ rest

/-- The engine is RUNNING, the opcode word at pc is m's, and CODE ends before m's last immediate. -/
abbrev State.CutsOff (s : State) (m : Mnemonic) : Prop :=
  s.status = .running ∧ s.inCode s.pc ∧ s.params.code[s.pc.toNat]? = some (s.params.opcodes.value m) ∧
    (s.codeSize : Int) < s.pc + m.format.words

/-- The checks of an instruction whose words were all fetched, in the order of R119. Each entry holds the condition of
its fault. -/
def faultChecks : Instr → State → List (Bool × FaultKind)
  | .const _, s => [(decide (s.params.stackCapacity ≤ s.sp + 1), .stackOverflow)]
  | .add, s => twoPops s
  | .sub, s => twoPops s
  | .mul, s => twoPops s
  | .lt, s => twoPops s
  | .eq, s => twoPops s
  | .jmp addr, s => [(target addr s, .invalidCodeAddress)]
  | .jmpt addr, s => [onePop s, (s.top 0 != 0 && target addr s, .invalidCodeAddress)]
  | .jmpf addr, s => [onePop s, (s.top 0 == 0 && target addr s, .invalidCodeAddress)]
  | .gload, s => [onePop s, (cell (s.top 0) s, .invalidMemoryAddress)]
  | .gstore addr, s => [onePop s, (cell addr s, .invalidMemoryAddress)]
  | .load offset, s =>
    [(occupied (s.fp + offset) s, .invalidMemoryAddress),
     (decide (s.params.stackCapacity ≤ s.sp + 1), .stackOverflow)]
  | .ldarg offset, s =>
    [(occupied (s.fp - 3 - offset) s, .invalidMemoryAddress),
     (decide (s.params.stackCapacity ≤ s.sp + 1), .stackOverflow)]
  | .store offset, s => [onePop s, (cell (s.fp + offset) s, .invalidMemoryAddress)]
  | .call addr argc, s =>
    [(decide (argc < 0 ∨ s.poppable < argc), .stackUnderflow),
     (decide (s.params.stackCapacity ≤ s.sp + 3), .stackOverflow),
     (target addr s, .invalidCodeAddress)]
  | .ret, s =>
    [onePop s,
     (decide (s.fp < 2), .stackUnderflow),
     (decide (s.stack.read (s.fp - 2).toNat < 0 ∨
        s.fp - 3 - s.stack.read (s.fp - 2).toNat < floorOf (s.stack.read (s.fp - 1).toNat) - 1), .stackUnderflow),
     (target (s.stack.read s.fp.toNat) s, .invalidCodeAddress)]
  | .print, s => [onePop s]
  | .pop, s => [onePop s]
  | .halt, _ => []
where
  onePop (s : State) : Bool × FaultKind := (decide (s.poppable < 1), .stackUnderflow)
  twoPops (s : State) : List (Bool × FaultKind) :=
    [(decide (s.poppable < 1), .stackUnderflow), (decide (s.poppable < 2), .stackUnderflow)]
  target (t : Int) (s : State) : Bool := decide (t < 0 ∨ (s.codeSize : Int) ≤ t)
  cell (a : Int) (s : State) : Bool := decide (a < 0 ∨ (s.params.dataSize : Int) ≤ a)
  occupied (i : Int) (s : State) : Bool := decide (i < 0 ∨ s.sp < i)

/-- The first check of R119 that fails: the fault the instruction takes (R122). -/
def firstFault (i : Instr) (s : State) : Option FaultKind :=
  ((faultChecks i s).find? (fun c => c.1)).map (fun c => c.2)

/-- The states agree on everything but the stale slots, those above sp (R35, R38, R45). -/
def StaleEq (s t : State) : Prop :=
  s.pc = t.pc ∧ s.sp = t.sp ∧ s.fp = t.fp ∧ s.data = t.data ∧ s.out = t.out ∧ s.status = t.status ∧
    s.params = t.params ∧ ∀ i : Nat, (i : Int) ≤ s.sp → s.stack.read i = t.stack.read i

/-- Two outcomes of a step that nothing but stale slots tells apart. -/
def OutcomeStaleEq : Host.Outcome State Fault Refusal → Host.Outcome State Fault Refusal → Prop
  | .next s, .next t => StaleEq s t
  | .fault f, .fault g => f = g
  | .refused f, .refused g => f = g
  | .next _, .fault _ => False
  | .next _, .refused _ => False
  | .fault _, .next _ => False
  | .fault _, .refused _ => False
  | .refused _, .next _ => False
  | .refused _, .fault _ => False

/-- A path of steps along which the frame pointer never falls below `f`: inside the frame at `f`, or inside one it
called. -/
inductive StepsWithin (f : Int) : State → State → Prop where
  | refl (s : State) : StepsWithin f s s
  | step {s t u : State} (path : StepsWithin f s t) (next : Sys2Proof.Machine.step t = .next u)
      (inside : f ≤ u.fp) : StepsWithin f s u

end Sys2Proof.Machine
end

