-- ==== Sys2Proof/Certificates/Slice0/Obligations.lean ====
section
/-! DEFINITION. The statements for the provers. Each one's docstring names the rules of spec/ it formalises. -/

open Sys2Proof Sys2Proof.Machine

/-! ### Encoding, decoding and fetch -/

/-- R63 to R65, R69: decoding the words of an instruction, whatever follows them, gives that instruction. The words of a
well-formed instruction are W-bit words (R7, R65). -/
def Obligations.DecodeOfEncodeIsTheInstruction : Prop :=
  (∀ om : OpcodeMap, om.Injective →
    ∀ (i : Instr) (rest : List Int), decode om (encode om i ++ rest) = .instr i) ∧
  (∀ (W : Nat) (om : OpcodeMap), (∀ m, IsWord W (om.value m)) →
    ∀ i : Instr, i.wf W = true → ∀ w ∈ encode om i, IsWord W w)

/-- R64, R69: the words an instruction is decoded from begin with its encoding. Decoded from W-bit words, it is
well-formed (R68). -/
def Obligations.DecodedWordsBeginWithTheEncoding : Prop :=
  ∀ (om : OpcodeMap) (ws : List Int) (i : Instr), decode om ws = .instr i →
    (∃ rest, ws = encode om i ++ rest) ∧
    ∀ W : Nat, (∀ w ∈ ws, IsWord W w) → i.wf W = true

/-- R71: an opcode word that is no mnemonic's value raises UnknownOpcode with fpc = ia and changes nothing else. Under
the default numbering these are the words outside 1..19. -/
def Obligations.IllegalOpcodeRaisesUnknownOpcode : Prop :=
  (∀ s : State, s.status = .running → s.inCode s.pc →
    (∀ m, s.params.code[s.pc.toNat]? ≠ some (s.params.opcodes.value m)) →
    step s = .next (FaultedFrom .unknownOpcode s)) ∧
  (∀ op : Int, (∀ m, defaultOpcodes.value m ≠ op) ↔ op < 1 ∨ 19 < op)

/-- R64, R66, R73: words written out from the opcode map decode to their instructions (one of each family). -/
def Obligations.SampleWordsDecode : Prop :=
  decode defaultOpcodes [1, -7] = .instr (.const (-7)) ∧
  decode defaultOpcodes [3] = .instr .sub ∧
  decode defaultOpcodes [8, 12] = .instr (.jmpt 12) ∧
  decode defaultOpcodes [14, 1] = .instr (.store 1) ∧
  decode defaultOpcodes [15, 10, 2] = .instr (.call 10 2) ∧
  decode defaultOpcodes [17] = .instr .print ∧
  decode defaultOpcodes [15, 10] = .cutOff .call ∧
  decode defaultOpcodes [0, 19] = .unknownOpcode

/-- R44, R69: an instruction is decoded at pc exactly when FetchCode, run once for each of its words, answers those
words. It leaves pc past them and changes nothing else. -/
def Obligations.DecodeAtPcAgreesWithFetchCode : Prop :=
  ∀ (s : State) (i : Instr), s.params.opcodes.Injective →
    (fetchDecode s = .instr i ↔
      fetchWords i.words s =
        .ok (encode s.params.opcodes i, { s with pc := s.pc + i.words }))

/-- R69, R141: a step of a RUNNING engine executes the instruction decoded at pc, and nothing around it. So it
executes the instruction whose words stand at pc. -/
def Obligations.StepExecutesTheInstructionAtPc : Prop :=
  (∀ (s : State) (i : Instr), s.status = .running → fetchDecode s = .instr i → step s = exec i s) ∧
  (∀ (s : State) (i : Instr), s.params.opcodes.Injective → s.Holds i → step s = exec i s)

/-- R143: past the last word (and anywhere outside CODE) there is no halt: the step raises InvalidCodeAddress with
fpc = pc and changes nothing else. -/
def Obligations.FetchOutsideCodeRaisesInvalidCodeAddress : Prop :=
  ∀ s : State, s.status = .running → (s.pc < 0 ∨ (s.codeSize : Int) ≤ s.pc) →
    step s = .next (FaultedFrom .invalidCodeAddress s)

/-- R44, R119: an instruction cut off by the end of CODE raises InvalidCodeAddress, except that GSTORE and STORE pop
first. -/
def Obligations.CutOffInstructionFaultsInItsOwnOrder : Prop :=
  ∀ (s : State) (m : Mnemonic), s.Sound → s.CutsOff m →
    step s = .next (FaultedFrom
      (if (m = .gstore ∨ m = .store) ∧ s.poppable < 1 then .stackUnderflow else .invalidCodeAddress) s)

/-! ### Constant, arithmetic, compare -/

/-- R14: wrap_W is the integer of the formula, and it is "the unique word congruent to x modulo 2^W", for every word
width. -/
def Obligations.WrapMeetsItsFormula : Prop :=
  ∀ (W : Nat) (x : Int), 1 ≤ W →
    wrapW W x = wrapInt W x ∧ IsWord W (wrapW W x) ∧ (wrapW W x - x) % 2 ^ W = 0 ∧
    ∀ y : Int, IsWord W y → (y - x) % 2 ^ W = 0 → y = wrapW W x

/-- R79: CONST. -/
def Obligations.ConstPushesItsImmediate : Prop :=
  (∀ (om : OpcodeMap) (value : Int), encode om (.const value) = [om.value .const, value]) ∧
  defaultOpcodes.value .const = 1 ∧
  (∀ s : State, s.Sound → s.CutsOff .const → step s = .next (FaultedFrom .invalidCodeAddress s)) ∧
  (∀ (s : State) (value : Int), s.Sound → s.sp = s.params.stackCapacity - 1 →
    exec (.const value) s = .next (FaultedFrom .stackOverflow s)) ∧
  (∀ (s : State) (value : Int), s.Sound → s.sp < s.params.stackCapacity - 1 →
    ∃ t, exec (.const value) s = .next t ∧ Moves s t (s.pc + 2) (s.sp + 1) ∧ t.top 0 = value ∧
      StackSameBut (s.sp + 1) s t ∧ DataSame s t)

/-- R80: ADD. -/
def Obligations.AddPushesTheWrappedSum : Prop :=
  (∀ om : OpcodeMap, encode om .add = [om.value .add]) ∧ defaultOpcodes.value .add = 2 ∧
  (∀ s : State, s.Sound → s.poppable < 2 → exec .add s = .next (FaultedFrom .stackUnderflow s)) ∧
  (∀ s : State, s.Sound → 2 ≤ s.poppable →
    ∃ t, exec .add s = .next t ∧ Moves s t (s.pc + 1) (s.sp - 1) ∧
      t.top 0 = wrapInt s.params.wordBits (s.top 1 + s.top 0) ∧
      StackSameBut (s.sp - 1) s t ∧ DataSame s t)

/-- R81: SUB. -/
def Obligations.SubPushesTheWrappedDifference : Prop :=
  (∀ om : OpcodeMap, encode om .sub = [om.value .sub]) ∧ defaultOpcodes.value .sub = 3 ∧
  (∀ s : State, s.Sound → s.poppable < 2 → exec .sub s = .next (FaultedFrom .stackUnderflow s)) ∧
  (∀ s : State, s.Sound → 2 ≤ s.poppable →
    ∃ t, exec .sub s = .next t ∧ Moves s t (s.pc + 1) (s.sp - 1) ∧
      t.top 0 = wrapInt s.params.wordBits (s.top 1 - s.top 0) ∧
      StackSameBut (s.sp - 1) s t ∧ DataSame s t)

/-- R82: MUL. -/
def Obligations.MulPushesTheWrappedProduct : Prop :=
  (∀ om : OpcodeMap, encode om .mul = [om.value .mul]) ∧ defaultOpcodes.value .mul = 4 ∧
  (∀ s : State, s.Sound → s.poppable < 2 → exec .mul s = .next (FaultedFrom .stackUnderflow s)) ∧
  (∀ s : State, s.Sound → 2 ≤ s.poppable →
    ∃ t, exec .mul s = .next t ∧ Moves s t (s.pc + 1) (s.sp - 1) ∧
      t.top 0 = wrapInt s.params.wordBits (s.top 1 * s.top 0) ∧
      StackSameBut (s.sp - 1) s t ∧ DataSame s t)

/-- R83: LT, 1 exactly when the word pushed first is the greater. -/
def Obligations.LtPushesWhetherTheFirstIsGreater : Prop :=
  (∀ om : OpcodeMap, encode om .lt = [om.value .lt]) ∧ defaultOpcodes.value .lt = 5 ∧
  (∀ s : State, s.Sound → s.poppable < 2 → exec .lt s = .next (FaultedFrom .stackUnderflow s)) ∧
  (∀ s : State, s.Sound → 2 ≤ s.poppable →
    ∃ t, exec .lt s = .next t ∧ Moves s t (s.pc + 1) (s.sp - 1) ∧
      t.top 0 = (if s.top 0 < s.top 1 then 1 else 0) ∧
      StackSameBut (s.sp - 1) s t ∧ DataSame s t)

/-- R84: EQ. -/
def Obligations.EqPushesWhetherTheTwoAreEqual : Prop :=
  (∀ om : OpcodeMap, encode om .eq = [om.value .eq]) ∧ defaultOpcodes.value .eq = 6 ∧
  (∀ s : State, s.Sound → s.poppable < 2 → exec .eq s = .next (FaultedFrom .stackUnderflow s)) ∧
  (∀ s : State, s.Sound → 2 ≤ s.poppable →
    ∃ t, exec .eq s = .next t ∧ Moves s t (s.pc + 1) (s.sp - 1) ∧
      t.top 0 = (if s.top 0 = s.top 1 then 1 else 0) ∧
      StackSameBut (s.sp - 1) s t ∧ DataSame s t)

/-- ADD, MUL and EQ do not depend on the order of their operands. An inference the spec marks as its own: R86
("ADD(a,b) = ADD(b,a), MUL(a,b) = MUL(b,a), EQ(a,b) = EQ(b,a)"). -/
def Obligations.AddMulEqAreCommutative : Prop :=
  ∀ i ∈ [Instr.add, Instr.mul, Instr.eq], ∀ s u : State, s.Sound → u.Sound →
    u.params.wordBits = s.params.wordBits → 2 ≤ s.poppable → 2 ≤ u.poppable → u.top 0 = s.top 1 → u.top 1 = s.top 0 →
    ∃ t v, exec i s = .next t ∧ exec i u = .next v ∧ t.top 0 = v.top 0

/-! ### Branches -/

/-- R89: JMP. -/
def Obligations.JmpGoesToItsTarget : Prop :=
  (∀ (om : OpcodeMap) (addr : Int), encode om (.jmp addr) = [om.value .jmp, addr]) ∧
  defaultOpcodes.value .jmp = 7 ∧
  (∀ s : State, s.Sound → s.CutsOff .jmp → step s = .next (FaultedFrom .invalidCodeAddress s)) ∧
  (∀ (s : State) (addr : Int), ¬s.inCode addr → exec (.jmp addr) s = .next (FaultedFrom .invalidCodeAddress s)) ∧
  (∀ (s : State) (addr : Int), s.inCode addr →
    ∃ t, exec (.jmp addr) s = .next t ∧ Moves s t addr s.sp ∧ StackSame s t ∧ DataSame s t)

/-- R90: JMPT. -/
def Obligations.JmptJumpsOnANonzeroWord : Prop :=
  (∀ (om : OpcodeMap) (addr : Int), encode om (.jmpt addr) = [om.value .jmpt, addr]) ∧
  defaultOpcodes.value .jmpt = 8 ∧
  (∀ s : State, s.Sound → s.CutsOff .jmpt → step s = .next (FaultedFrom .invalidCodeAddress s)) ∧
  (∀ (s : State) (addr : Int), s.Sound → s.poppable < 1 →
    exec (.jmpt addr) s = .next (FaultedFrom .stackUnderflow s)) ∧
  (∀ (s : State) (addr : Int), s.Sound → 1 ≤ s.poppable → s.top 0 ≠ 0 → ¬s.inCode addr →
    exec (.jmpt addr) s = .next (FaultedFrom .invalidCodeAddress s)) ∧
  (∀ (s : State) (addr : Int), s.Sound → 1 ≤ s.poppable → s.top 0 ≠ 0 → s.inCode addr →
    ∃ t, exec (.jmpt addr) s = .next t ∧ Moves s t addr (s.sp - 1) ∧ StackSame s t ∧ DataSame s t) ∧
  (∀ (s : State) (addr : Int), s.Sound → 1 ≤ s.poppable → s.top 0 = 0 →
    ∃ t, exec (.jmpt addr) s = .next t ∧ Moves s t (s.pc + 2) (s.sp - 1) ∧ StackSame s t ∧ DataSame s t)

/-- R91: JMPF. -/
def Obligations.JmpfJumpsOnZero : Prop :=
  (∀ (om : OpcodeMap) (addr : Int), encode om (.jmpf addr) = [om.value .jmpf, addr]) ∧
  defaultOpcodes.value .jmpf = 9 ∧
  (∀ s : State, s.Sound → s.CutsOff .jmpf → step s = .next (FaultedFrom .invalidCodeAddress s)) ∧
  (∀ (s : State) (addr : Int), s.Sound → s.poppable < 1 →
    exec (.jmpf addr) s = .next (FaultedFrom .stackUnderflow s)) ∧
  (∀ (s : State) (addr : Int), s.Sound → 1 ≤ s.poppable → s.top 0 = 0 → ¬s.inCode addr →
    exec (.jmpf addr) s = .next (FaultedFrom .invalidCodeAddress s)) ∧
  (∀ (s : State) (addr : Int), s.Sound → 1 ≤ s.poppable → s.top 0 = 0 → s.inCode addr →
    ∃ t, exec (.jmpf addr) s = .next t ∧ Moves s t addr (s.sp - 1) ∧ StackSame s t ∧ DataSame s t) ∧
  (∀ (s : State) (addr : Int), s.Sound → 1 ≤ s.poppable → s.top 0 ≠ 0 →
    ∃ t, exec (.jmpf addr) s = .next t ∧ Moves s t (s.pc + 2) (s.sp - 1) ∧ StackSame s t ∧ DataSame s t)

/-- R144: a JMP to itself runs for as long as its host lets it, and changes nothing. -/
def Obligations.JmpToItselfNeverEnds : Prop :=
  ∀ s : State, s.params.opcodes.Injective → s.Holds (.jmp s.pc) →
    ∀ budget : Nat, run budget s = s ∧ s.result = .noResult

/-! ### Loads and stores -/

/-- R94: GLOAD. -/
def Obligations.GloadReadsDataMemory : Prop :=
  (∀ om : OpcodeMap, encode om .gload = [om.value .gload]) ∧ defaultOpcodes.value .gload = 10 ∧
  (∀ s : State, s.Sound → s.poppable < 1 → exec .gload s = .next (FaultedFrom .stackUnderflow s)) ∧
  (∀ s : State, s.Sound → 1 ≤ s.poppable → ¬s.hasCell (s.top 0) →
    exec .gload s = .next (FaultedFrom .invalidMemoryAddress s)) ∧
  (∀ s : State, s.Sound → 1 ≤ s.poppable → s.hasCell (s.top 0) →
    ∃ t, exec .gload s = .next t ∧ Moves s t (s.pc + 1) s.sp ∧ t.top 0 = s.data.read (s.top 0).toNat ∧
      StackSameBut s.sp s t ∧ DataSame s t)

/-- R95: GSTORE. The last clause is the rule's "A GLOAD of the same address afterwards returns v", whatever the stack
holds by then. -/
def Obligations.GstoreWritesDataMemory : Prop :=
  (∀ (om : OpcodeMap) (addr : Int), encode om (.gstore addr) = [om.value .gstore, addr]) ∧
  defaultOpcodes.value .gstore = 11 ∧
  (∀ s : State, s.Sound → s.CutsOff .gstore → 1 ≤ s.poppable →
    step s = .next (FaultedFrom .invalidCodeAddress s)) ∧
  (∀ s : State, s.Sound → s.CutsOff .gstore → s.poppable < 1 →
    step s = .next (FaultedFrom .stackUnderflow s)) ∧
  (∀ (s : State) (addr : Int), s.Sound → s.poppable < 1 →
    exec (.gstore addr) s = .next (FaultedFrom .stackUnderflow s)) ∧
  (∀ (s : State) (addr : Int), s.Sound → 1 ≤ s.poppable → ¬s.hasCell (absolute addr) →
    exec (.gstore addr) s = .next (FaultedFrom .invalidMemoryAddress s)) ∧
  (∀ (s : State) (addr : Int), s.Sound → 1 ≤ s.poppable → s.hasCell (absolute addr) →
    ∃ t, exec (.gstore addr) s = .next t ∧ Moves s t (s.pc + 2) (s.sp - 1) ∧
      t.data.read (absolute addr).toNat = s.top 0 ∧ DataSameBut (absolute addr) s t ∧ StackSame s t) ∧
  (∀ addr : Int, absolute addr = addr) ∧
  (∀ (s t u : State) (addr : Int), s.Sound → s.status = .running → exec (.gstore addr) s = .next t →
    t.status = .running → u.Sound → u.params = t.params → u.data = t.data → 1 ≤ u.poppable → u.top 0 = addr →
    ∃ v, exec .gload u = .next v ∧ v.top 0 = s.top 0)

/-- R96: LOAD. The last clause is the rule's "`LOAD -3-k` = `LDARG k`", in every state and with every outcome. -/
def Obligations.LoadPushesAFrameRelativeSlot : Prop :=
  (∀ (om : OpcodeMap) (offset : Int), encode om (.load offset) = [om.value .load, offset]) ∧
  defaultOpcodes.value .load = 12 ∧
  (∀ s : State, s.Sound → s.CutsOff .load → step s = .next (FaultedFrom .invalidCodeAddress s)) ∧
  (∀ (s : State) (offset : Int), s.Sound → (s.fp + offset < 0 ∨ s.sp < s.fp + offset) →
    exec (.load offset) s = .next (FaultedFrom .invalidMemoryAddress s)) ∧
  (∀ (s : State) (offset : Int), s.Sound → 0 ≤ s.fp + offset → s.fp + offset ≤ s.sp →
    s.sp = s.params.stackCapacity - 1 → exec (.load offset) s = .next (FaultedFrom .stackOverflow s)) ∧
  (∀ (s : State) (offset : Int), s.Sound → 0 ≤ s.fp + offset → s.fp + offset ≤ s.sp →
    s.sp < s.params.stackCapacity - 1 →
    ∃ t, exec (.load offset) s = .next t ∧ Moves s t (s.pc + 2) (s.sp + 1) ∧
      t.top 0 = s.stack.read (s.fp + offset).toNat ∧ StackSameBut (s.sp + 1) s t ∧ DataSame s t) ∧
  (∀ (s : State) (k : Int), exec (.load (-3 - k)) s = exec (.ldarg k) s)

/-- R97: LDARG. -/
def Obligations.LdargPushesAnArgumentSlot : Prop :=
  (∀ (om : OpcodeMap) (offset : Int), encode om (.ldarg offset) = [om.value .ldarg, offset]) ∧
  defaultOpcodes.value .ldarg = 13 ∧
  (∀ s : State, s.Sound → s.CutsOff .ldarg → step s = .next (FaultedFrom .invalidCodeAddress s)) ∧
  (∀ (s : State) (offset : Int), s.Sound →
    (s.fp - 3 - offset < 0 ∨ s.sp < s.fp - 3 - offset) →
    exec (.ldarg offset) s = .next (FaultedFrom .invalidMemoryAddress s)) ∧
  (∀ (s : State) (offset : Int), s.Sound → 0 ≤ s.fp - 3 - offset →
    s.fp - 3 - offset ≤ s.sp → s.sp = s.params.stackCapacity - 1 →
    exec (.ldarg offset) s = .next (FaultedFrom .stackOverflow s)) ∧
  (∀ (s : State) (offset : Int), s.Sound → 0 ≤ s.fp - 3 - offset →
    s.fp - 3 - offset ≤ s.sp → s.sp < s.params.stackCapacity - 1 →
    ∃ t, exec (.ldarg offset) s = .next t ∧ Moves s t (s.pc + 2) (s.sp + 1) ∧
      t.top 0 = s.stack.read (s.fp - 3 - offset).toNat ∧ StackSameBut (s.sp + 1) s t ∧ DataSame s t)

/-- R98 (and R99): STORE writes data memory at fp + offset and never the stack. The last clause is the rule's "At top
level (fp = 0), STORE k writes M[k], the same cell as GSTORE k". -/
def Obligations.StoreWritesDataMemoryNotTheStack : Prop :=
  (∀ (om : OpcodeMap) (offset : Int), encode om (.store offset) = [om.value .store, offset]) ∧
  defaultOpcodes.value .store = 14 ∧
  (∀ s : State, s.Sound → s.CutsOff .store → 1 ≤ s.poppable →
    step s = .next (FaultedFrom .invalidCodeAddress s)) ∧
  (∀ s : State, s.Sound → s.CutsOff .store → s.poppable < 1 →
    step s = .next (FaultedFrom .stackUnderflow s)) ∧
  (∀ (s : State) (offset : Int), s.Sound → s.poppable < 1 →
    exec (.store offset) s = .next (FaultedFrom .stackUnderflow s)) ∧
  (∀ (s : State) (offset : Int), s.Sound → 1 ≤ s.poppable → ¬s.hasCell (frameUp s offset) →
    exec (.store offset) s = .next (FaultedFrom .invalidMemoryAddress s)) ∧
  (∀ (s : State) (offset : Int), s.Sound → 1 ≤ s.poppable → s.hasCell (frameUp s offset) →
    ∃ t, exec (.store offset) s = .next t ∧ Moves s t (s.pc + 2) (s.sp - 1) ∧
      t.data.read (frameUp s offset).toNat = s.top 0 ∧ DataSameBut (frameUp s offset) s t ∧ StackSame s t) ∧
  (∀ (s : State) (offset : Int), frameUp s offset = s.fp + offset) ∧
  (∀ (s : State) (k : Int), s.fp = 0 → exec (.store k) s = exec (.gstore k) s)

/-! ### Call and return -/

/-- R103 (with R102): CALL. -/
def Obligations.CallPushesAFrameAndEntersTheCallee : Prop :=
  (∀ (om : OpcodeMap) (addr argc : Int), encode om (.call addr argc) = [om.value .call, addr, argc]) ∧
  defaultOpcodes.value .call = 15 ∧
  (∀ s : State, s.Sound → s.CutsOff .call → step s = .next (FaultedFrom .invalidCodeAddress s)) ∧
  (∀ (s : State) (addr argc : Int), s.Sound → (argc < 0 ∨ s.poppable < argc) →
    exec (.call addr argc) s = .next (FaultedFrom .stackUnderflow s)) ∧
  (∀ (s : State) (addr argc : Int), s.Sound → 0 ≤ argc → argc ≤ s.poppable →
    s.params.stackCapacity - 1 < s.sp + 3 → exec (.call addr argc) s = .next (FaultedFrom .stackOverflow s)) ∧
  (∀ (s : State) (addr argc : Int), s.Sound → 0 ≤ argc → argc ≤ s.poppable →
    s.sp + 3 ≤ s.params.stackCapacity - 1 → ¬s.inCode addr →
    exec (.call addr argc) s = .next (FaultedFrom .invalidCodeAddress s)) ∧
  (∀ (s : State) (addr argc : Int), s.Sound → 0 ≤ argc → argc ≤ s.poppable →
    s.sp + 3 ≤ s.params.stackCapacity - 1 → s.inCode addr →
    ∃ t, exec (.call addr argc) s = .next t ∧ t.pc = addr ∧ t.sp = s.sp + 3 ∧ t.fp = s.sp + 3 ∧
      t.top 2 = argc ∧ t.top 1 = s.fp ∧ t.top 0 = s.pc + 3 ∧
      (∀ j : Nat, (j : Int) ≤ s.sp ∨ s.sp + 3 < j → t.stack.read j = s.stack.read j) ∧ DataSame s t ∧
      t.out = s.out ∧ t.status = s.status ∧ t.params = s.params)

/-- R101: inside the callee, LDARG n-1-k pushes the caller's k-th argument. -/
def Obligations.CalleeReadsItsArguments : Prop :=
  ∀ (s t : State) (addr argc : Int) (k : Nat), s.Sound → s.status = .running →
    exec (.call addr argc) s = .next t → t.status = .running → (k : Int) < argc →
    t.sp < t.params.stackCapacity - 1 →
    ∃ u, exec (.ldarg (argc - 1 - k)) t = .next u ∧
      u.top 0 = s.stack.read (s.sp - argc + 1 + k).toNat

/-- R105: RET. -/
def Obligations.RetUnwindsOneFrame : Prop :=
  (∀ om : OpcodeMap, encode om .ret = [om.value .ret]) ∧ defaultOpcodes.value .ret = 16 ∧
  (∀ s : State, s.Sound → s.poppable < 1 → exec .ret s = .next (FaultedFrom .stackUnderflow s)) ∧
  (∀ s : State, s.Sound → s.fp = 0 → exec .ret s = .next (FaultedFrom .stackUnderflow s)) ∧
  (∀ (s : State) (retPc oldFp argc : Int), s.Sound → 1 ≤ s.poppable → s.fp ≠ 0 →
    retPc = s.stack.read s.fp.toNat → oldFp = s.stack.read (s.fp - 1).toNat →
    argc = s.stack.read (s.fp - 2).toNat →
    (argc < 0 ∨ s.fp - 3 - argc < floorOf oldFp - 1) →
    exec .ret s = .next (FaultedFrom .stackUnderflow s)) ∧
  (∀ (s : State) (retPc oldFp argc : Int), s.Sound → 1 ≤ s.poppable → s.fp ≠ 0 →
    retPc = s.stack.read s.fp.toNat → oldFp = s.stack.read (s.fp - 1).toNat →
    argc = s.stack.read (s.fp - 2).toNat →
    0 ≤ argc → floorOf oldFp - 1 ≤ s.fp - 3 - argc → ¬s.inCode retPc →
    exec .ret s = .next (FaultedFrom .invalidCodeAddress s)) ∧
  (∀ (s : State) (retPc oldFp argc : Int), s.Inv → 1 ≤ s.poppable → s.fp ≠ 0 →
    retPc = s.stack.read s.fp.toNat → oldFp = s.stack.read (s.fp - 1).toNat →
    argc = s.stack.read (s.fp - 2).toNat → s.inCode retPc →
    ∃ t, exec .ret s = .next t ∧ t.pc = retPc ∧ t.sp = s.fp - 2 - argc ∧ t.fp = oldFp ∧
      t.top 0 = s.top 0 ∧ StackSameBut (s.fp - 2 - argc) s t ∧ DataSame s t ∧
      t.out = s.out ∧ t.status = s.status ∧ t.params = s.params)

/-- The call/return balance, an inference the spec marks as its own (R107, from R100, R103, R105, R38). `c` is the state
after the CALL; `u` is where the matching RET executes: it is reached from `c` without leaving the callee's frame, and
its frame is the callee's own. -/
def Obligations.CallAndMatchingRetBalance : Prop :=
  ∀ (s c u v : State) (addr argc : Int), s.Inv → s.status = .running →
    fetchDecode s = .instr (.call addr argc) → step s = .next c → c.status = .running →
    StepsWithin c.fp c u → u.fp = c.fp → fetchDecode u = .instr .ret → step u = .next v → v.status = .running →
    v.sp = s.sp - argc + 1 ∧ v.fp = s.fp ∧ v.pc = s.pc + 3 ∧
      v.stack.read (s.sp - argc + 1).toNat = u.top 0 ∧
      (∀ j : Nat, (j : Int) ≤ s.sp - argc → v.stack.read j = s.stack.read j)

/-! ### Output, discard, halt -/

/-- R112: PRINT. The host then sees one line more, the one R113 gives the word. -/
def Obligations.PrintAppendsTheTopToOut : Prop :=
  (∀ om : OpcodeMap, encode om .print = [om.value .print]) ∧ defaultOpcodes.value .print = 17 ∧
  (∀ s : State, s.Sound → s.poppable < 1 → exec .print s = .next (FaultedFrom .stackUnderflow s)) ∧
  (∀ s : State, s.Sound → 1 ≤ s.poppable →
    ∃ t, exec .print s = .next t ∧ t.out = s.out ++ [s.top 0] ∧ t.pc = s.pc + 1 ∧ t.sp = s.sp - 1 ∧ t.fp = s.fp ∧
      t.status = s.status ∧ t.params = s.params ∧ StackSame s t ∧ DataSame s t ∧
      t.outputText = s.outputText ++ renderWord (s.top 0))

/-- R114: POP. -/
def Obligations.PopDiscardsTheTop : Prop :=
  (∀ om : OpcodeMap, encode om .pop = [om.value .pop]) ∧ defaultOpcodes.value .pop = 18 ∧
  (∀ s : State, s.Sound → s.poppable < 1 → exec .pop s = .next (FaultedFrom .stackUnderflow s)) ∧
  (∀ s : State, s.Sound → 1 ≤ s.poppable →
    ∃ t, exec .pop s = .next t ∧ Moves s t (s.pc + 1) (s.sp - 1) ∧ StackSame s t ∧ DataSame s t)

/-- R115: HALT, in every state: status HALTED, pc past the opcode, nothing else changed. -/
def Obligations.HaltEndsTheRun : Prop :=
  (∀ om : OpcodeMap, encode om .halt = [om.value .halt]) ∧ defaultOpcodes.value .halt = 19 ∧
  (∀ s : State, exec .halt s = .next { s with pc := s.pc + 1, status := .halted })

/-! ### Faults -/

/-- In every state that meets the invariant each instruction takes the first fault of its row of the table, and where no
check of the row fails it completes (R122). The table is an inference the spec marks as its own (R119, from the
instruction rules). -/
def Obligations.FaultTableDecidesEveryInstruction : Prop :=
  ∀ (i : Instr) (s : State), s.Inv → s.status = .running →
    (∀ k, firstFault i s = some k → exec i s = .next (FaultedFrom k s)) ∧
    (firstFault i s = none → ∃ t, exec i s = .next t ∧ ∀ k fpc, t.status ≠ .faulted k fpc)

/-- R120, R121: a fault of a step records the address of the faulting instruction, and the faulted state is the state
before but for the status. -/
def Obligations.FaultsArePreciseAndRecordTheOpcodeAddress : Prop :=
  ∀ (s t : State) (k : FaultKind) (fpc : Int), s.status = .running → step s = .next t →
    t.status = .faulted k fpc → fpc = s.pc ∧ t = FaultedFrom k s

/-- The codes of R118: 1 to 5 in the order of its table, distinct (R136), and 0 for a status without a fault. -/
def Obligations.FaultCodesAreDistinct : Prop :=
  [FaultKind.stackOverflow, .stackUnderflow, .invalidMemoryAddress, .invalidCodeAddress, .unknownOpcode].map
    FaultKind.code = [1, 2, 3, 4, 5] ∧
  (∀ k l : FaultKind, k.code = l.code → k = l) ∧
  (∀ st : Status, st.code = 0 ↔ ∀ k fpc, st ≠ .faulted k fpc)

/-- A HALTED or FAULTED engine executes nothing more, so a further run gives the same result (R116): success for HALTED,
and the recorded failure for FAULTED (R125). That `step` then stops with `notRunning` is the model's (log 7): the spec
defines Step only for RUNNING and treats the case as `stuck` (93_implementation_defined.md I15). -/
def Obligations.FinishedEngineExecutesNothing : Prop :=
  (∀ s : State, s.status ≠ .running → step s = .fault .notRunning ∧ ∀ budget, run budget s = s) ∧
  (∀ (s : State) (budget : Nat), s.status = .halted → (run budget s).result = .success) ∧
  (∀ (s : State) (k : FaultKind) (fpc : Int) (budget : Nat), s.status = .faulted k fpc →
    (run budget s).result = .failure k fpc)

/-! ### Reset and the run loop -/

/-- R39: the reset state. The values of pc, CODE, D and the stack slots are the model's choices (log 3, log 4), so
they are not stated. -/
def Obligations.ResetHasTheStatedValues : Prop :=
  State.reset.pc = State.reset.params.entryPc ∧ State.reset.sp = -1 ∧ State.reset.fp = 0 ∧
  (∀ a, State.reset.data.read a = 0) ∧ State.reset.out = [] ∧ State.reset.status = .running

/-- R137, R138: construction fails exactly on an empty CODE or a negative size. Otherwise it gives the reset values,
and an entry pc outside CODE faults at the first fetch. -/
def Obligations.InitBuildsTheResetState : Prop :=
  ∀ (om : OpcodeMap) (cap : Nat) (code : List Int) (entryPc localsSize : Int) (W : Nat),
    ((code = [] ∨ localsSize < 0) → init om cap code entryPc localsSize W = .error .initError) ∧
    (code ≠ [] → 0 ≤ localsSize → ∃ s, init om cap code entryPc localsSize W = .ok s ∧
      s.pc = entryPc ∧ s.sp = -1 ∧ s.fp = 0 ∧ (∀ a, s.data.read a = 0) ∧ s.out = [] ∧ s.status = .running ∧
      s.params.code = code ∧ s.params.entryPc = entryPc ∧ (s.params.dataSize : Int) = localsSize ∧
      s.params.stackCapacity = cap ∧ s.params.opcodes = om ∧ s.params.wordBits = W ∧
      (¬s.inCode entryPc → step s = .next (FaultedFrom .invalidCodeAddress s)))

/-- The reset state, and every state construction gives under R13, meets the invariant. R36 to R38 are inferences the
spec marks as its own; that memories are in canonical form is the model's representation (log 2). -/
def Obligations.ConstructionMeetsTheInvariant : Prop :=
  State.reset.Inv ∧
  ∀ (om : OpcodeMap) (cap : Nat) (code : List Int) (entryPc localsSize : Int) (W : Nat) (s : State),
    init om cap code entryPc localsSize W = .ok s → s.params.InRange → s.Inv

/-- Every step keeps the invariant, from every state that meets it. The bounds of sp and fp (R36), the bounds of pc
(R37) and the frame chain (R38 (b), R108) are inferences the spec marks as its own; that memories are in canonical form
is the model's representation (log 2). -/
def Obligations.EveryStepKeepsTheInvariant : Prop :=
  ∀ s t : State, s.Inv → step s = .next t → t.Inv

/-- "a RUNNING engine always has exactly one enabled step", an inference the spec marks as its own (R151): no RUNNING
state that meets the invariant is stuck. -/
def Obligations.RunningEngineAlwaysSteps : Prop :=
  ∀ s : State, s.Inv → s.status = .running → ∃ t, step s = .next t

/-- R140, R144: a run is Step repeated while the status is RUNNING. Each step that is taken uses one of the budget. A
run that its budget cuts short has no result, and its state is the one after the last completed step: `budget` steps of
the machine, each with a next state. A run that ends within the budget ends where its last step leads. -/
def Obligations.RunIsRepeatedStep : Prop :=
  (∀ (s t : State) (budget : Nat), s.status = .running → step s = .next t → run (budget + 1) s = run budget t) ∧
  (∀ (s : State) (budget : Nat), s.Inv → (run budget s).status = .running →
    (run budget s).result = .noResult ∧ Host.Core.run Sys2Proof.core budget s = .next (run budget s)) ∧
  (∀ (s t : State) (k budget : Nat), Host.Core.run Sys2Proof.core k s = .next t → t.status ≠ .running →
    k ≤ budget → run budget s = t)

/-- R30: along any run OUT only grows at its end. -/
def Obligations.OutputIsAppendOnlyAlongARun : Prop :=
  ∀ (s : State) (budget : Nat), s.out <+: (run budget s).out

/-! ### Rules of the whole machine -/

/-- After every committed instruction pc lies in [0, N]; an entry pc outside CODE faults at the first fetch. An
inference the spec marks as its own (R37, from R44 and R87). -/
def Obligations.PcStaysWithinCode : Prop :=
  (∀ s t : State, s.status = .running → step s = .next t →
    (∀ k fpc, t.status ≠ .faulted k fpc) → 0 ≤ t.pc ∧ t.pc ≤ t.codeSize) ∧
  (∀ p : Params, (p.entryPc < 0 ∨ (p.code.length : Int) ≤ p.entryPc) →
    step (State.construct p) = .next (FaultedFrom .invalidCodeAddress (State.construct p)))

/-- R43: no step writes CODE, nor any other parameter. -/
def Obligations.NoStepWritesCode : Prop :=
  ∀ s t : State, step s = .next t → t.params.code = s.params.code ∧ t.params = s.params

/-- R30: only PRINT appends to OUT, one word, and nothing removes from it. -/
def Obligations.OnlyPrintWritesOut : Prop :=
  ∀ s t : State, step s = .next t →
    t.out = s.out ∨ (fetchDecode s = .instr .print ∧ t.out = s.out ++ [s.top 0])

/-- R29, R41: only GSTORE and STORE write data memory, one cell, at the address of their addressing mode. -/
def Obligations.OnlyGstoreAndStoreWriteData : Prop :=
  ∀ s t : State, step s = .next t →
    t.data = s.data ∨
    (∃ addr, fetchDecode s = .instr (.gstore addr) ∧ DataSameBut (absolute addr) s t) ∨
    (∃ offset, fetchDecode s = .instr (.store offset) ∧ DataSameBut (frameUp s offset) s t)

/-- R26: only CALL and RET write fp. -/
def Obligations.OnlyCallAndRetWriteFp : Prop :=
  ∀ s t : State, step s = .next t → t.fp ≠ s.fp →
    (∃ addr argc, fetchDecode s = .instr (.call addr argc)) ∨ fetchDecode s = .instr .ret

/-- R27: only HALT makes the status HALTED. -/
def Obligations.OnlyHaltEndsARunInSuccess : Prop :=
  ∀ s t : State, step s = .next t → t.status = .halted → fetchDecode s = .instr .halt

/-- An inference the spec marks as its own (R38 (b)): a step does not write a slot at or below the frame pointer of a
frame that is active both before and after it. -/
def Obligations.FrameWordsAreNeverOverwritten : Prop :=
  ∀ s t : State, s.Inv → step s = .next t →
    ∀ j : Nat, (j : Int) < floorOf s.fp → (j : Int) < floorOf t.fp → t.stack.read j = s.stack.read j

/-- No step reads a slot above sp, an inference the spec marks as its own (R35, R38 (a); "never observable", R28). Two
states that differ only in stale slots take the same step, and the states after it differ only in stale slots. -/
def Obligations.StaleSlotsAreInvisible : Prop :=
  ∀ s t : State, s.Sound → t.Sound → StaleEq s t → OutcomeStaleEq (step s) (step t)

/-! ### The assembler -/

/-- R75: a listing of instructions whose immediates are W-bit words is translated into their encodings, laid out back to
back. At the first line whose instruction, any mnemonic's, has an immediate that is no W-bit word, the listing is an
assembly error that names such an immediate, whatever lines follow. -/
def Obligations.ListingAssemblesToTheEncodings : Prop :=
  (∀ (W : Nat) (om : OpcodeMap) (is : List Instr), (∀ i ∈ is, i.wf W = true) →
    asmProgram om (is.map asmLineOf) W = .ok (is.flatMap (encode om))) ∧
  (∀ (W : Nat) (om : OpcodeMap) (is : List Instr) (i : Instr) (rest : List AsmLine),
    (∀ j ∈ is, j.wf W = true) → i.wf W = false →
    ∃ n ∈ i.immediates, ¬IsWord W n ∧
      asmProgram om (is.map asmLineOf ++ asmLineOf i :: rest) W = .error (.operandTooLarge n))

/-! ### The word width -/

/-- R7: the width is an argument of construction, with the default 32 where none is given. Every word of an engine that
meets the invariant has that width, and a step leads to words of the same width. -/
def Obligations.EveryWordHasTheWidthGiven : Prop :=
  (∀ (om : OpcodeMap) (cap : Nat) (code : List Int) (entryPc localsSize : Int) (W : Nat) (s : State),
    init om cap code entryPc localsSize W = .ok s → s.params.wordBits = W) ∧
  (∀ (om : OpcodeMap) (cap : Nat) (code : List Int) (entryPc localsSize : Int),
    init om cap code entryPc localsSize = init om cap code entryPc localsSize 32) ∧
  (∀ s t : State, s.Inv → step s = .next t → t.params.wordBits = s.params.wordBits ∧
    IsWord s.params.wordBits t.pc ∧ IsWord s.params.wordBits t.fp ∧
    (∀ a, IsWord s.params.wordBits (t.stack.read a)) ∧ (∀ a, IsWord s.params.wordBits (t.data.read a)) ∧
    ∀ w ∈ t.out, IsWord s.params.wordBits w)
end

