-- ==== Sys2Proof/Laws/Decode.lean ====
section
/-! SUPPORT. The laws of the opcode map's lookup, and the default numbering. -/

namespace Sys2Proof

theorem Mnemonic.mem_all (m : Mnemonic) : m ∈ Mnemonic.all := by cases m <;> decide

/-- A lookup that answers gives a mnemonic with that value (R69). -/
theorem OpcodeMap.lookup_sound {om : OpcodeMap} {op : Int} {m : Mnemonic} (h : om.lookup op = some m) :
    om.value m = op := by
  have := List.find?_some h
  simpa using this

/-- A lookup that does not answer means no mnemonic has that value (R71). -/
theorem OpcodeMap.lookup_none {om : OpcodeMap} {op : Int} :
    om.lookup op = none ↔ ∀ m, om.value m ≠ op := by
  simp only [OpcodeMap.lookup, List.find?_eq_none]
  constructor
  · intro h m
    simpa using h m m.mem_all
  · intro h m _
    simpa using h m

/-- In an injective map two mnemonics with one value are one (R12). -/
theorem OpcodeMap.Injective.eq {om : OpcodeMap} (hom : om.Injective) {m n : Mnemonic} (h : om.value m = om.value n) :
    m = n :=
  List.inj_on_of_nodup_map hom m.mem_all n.mem_all h

/-- In an injective map the lookup of a mnemonic's value gives that mnemonic (R69). -/
theorem OpcodeMap.lookup_value {om : OpcodeMap} (hom : om.Injective) (m : Mnemonic) :
    om.lookup (om.value m) = some m := by
  cases h : om.lookup (om.value m) with
  | none => exact absurd rfl (OpcodeMap.lookup_none.mp h m)
  | some n => rw [hom.eq (OpcodeMap.lookup_sound h)]

/-- The default numbering is injective (R12, R66). -/
theorem defaultOpcodes_injective : defaultOpcodes.Injective := by decide

end Sys2Proof
end

