-- ==== Sys2Proof/Laws/Memory.lean ====
section
/-! SUPPORT. The laws of a memory: read after write, the canonical form kept by every write, and equality of memories
that read alike. -/

namespace Sys2Proof.Machine

abbrev rising (l : List (Nat × Int)) : Prop := l.Pairwise (fun c d => c.1 < d.1)

/-- Below the first index, a rising list lists nothing. -/
theorem cellsRead_below (l : List (Nat × Int)) (a : Nat) (h : ∀ c ∈ l, a < c.1) :
    cellsRead l a = Memory.unlisted := by
  induction l with
  | nil => rfl
  | cons c l ih =>
    have hc : c.1 ≠ a := by have := h c (by simp); omega
    simp [cellsRead, hc, ih (fun d hd => h d (by simp [hd]))]

theorem cellsRead_write_same (l : List (Nat × Int)) (hl : rising l) (a : Nat) (v : Int) :
    cellsRead (cellsWrite l a v) a = v := by
  induction l with
  | nil => by_cases hv : v = Memory.unlisted <;> simp [cellsWrite, cellsRead, hv]
  | cons c l ih =>
    obtain ⟨hc, hl'⟩ := List.pairwise_cons.mp hl
    have hrest : ∀ d ∈ l, c.1 < d.1 := hc
    by_cases hlt : a < c.1
    · by_cases hv : v = Memory.unlisted
      · subst hv
        have : cellsRead (c :: l) a = Memory.unlisted :=
          cellsRead_below _ _ (by
            intro d hd
            rcases List.mem_cons.mp hd with rfl | hd
            · exact hlt
            · exact lt_trans hlt (hrest d hd))
        simpa [cellsWrite, hlt] using this
      · simp [cellsWrite, hlt, hv, cellsRead]
    · by_cases heq : a = c.1
      · by_cases hv : v = Memory.unlisted
        · subst hv heq
          simpa [cellsWrite] using cellsRead_below l c.1 hrest
        · simp [cellsWrite, heq, hv, cellsRead]
      · have hne : c.1 ≠ a := fun h => heq h.symm
        simp [cellsWrite, hlt, heq, cellsRead, hne, ih hl']

theorem cellsRead_write_other (l : List (Nat × Int)) (a b : Nat) (v : Int) (hab : b ≠ a) :
    cellsRead (cellsWrite l a v) b = cellsRead l b := by
  induction l with
  | nil =>
    by_cases hv : v = Memory.unlisted
    · simp [cellsWrite, hv]
    · simp [cellsWrite, hv, cellsRead, hab.symm]
  | cons c l ih =>
    by_cases hlt : a < c.1
    · by_cases hv : v = Memory.unlisted
      · simp [cellsWrite, hlt, hv]
      · simp [cellsWrite, hlt, hv, cellsRead, hab.symm]
    · by_cases heq : a = c.1
      · subst heq
        by_cases hv : v = Memory.unlisted <;> simp [cellsWrite, hv, cellsRead, hab.symm]
      · simp [cellsWrite, hlt, heq, cellsRead, ih]

/-- What a write lists was listed before, or is the written cell. -/
theorem mem_cellsWrite (l : List (Nat × Int)) (a : Nat) (v : Int) (c : Nat × Int) (hc : c ∈ cellsWrite l a v) :
    c ∈ l ∨ (c = (a, v) ∧ v ≠ Memory.unlisted) := by
  induction l with
  | nil =>
    by_cases hv : v = Memory.unlisted
    · simp [cellsWrite, hv] at hc
    · simp only [cellsWrite, hv, if_false, List.mem_singleton] at hc
      exact .inr ⟨hc, hv⟩
  | cons d l ih =>
    by_cases hlt : a < d.1
    · by_cases hv : v = Memory.unlisted
      · simp only [cellsWrite, hlt, hv, if_true] at hc
        exact .inl hc
      · simp only [cellsWrite, hlt, hv, if_true, if_false] at hc
        rcases List.mem_cons.mp hc with h | h
        · exact .inr ⟨h, hv⟩
        · exact .inl h
    · by_cases heq : a = d.1
      · by_cases hv : v = Memory.unlisted
        · simp only [cellsWrite, heq, hv, lt_irrefl, if_true, if_false] at hc
          exact .inl (List.mem_cons_of_mem _ hc)
        · simp only [cellsWrite, heq, hv, lt_irrefl, if_true, if_false] at hc
          rcases List.mem_cons.mp hc with h | h
          · exact .inr ⟨by rw [h, heq], hv⟩
          · exact .inl (List.mem_cons_of_mem _ h)
      · simp only [cellsWrite, hlt, heq, if_false] at hc
        rcases List.mem_cons.mp hc with h | h
        · exact .inl (by simp [h])
        · rcases ih h with h | h
          · exact .inl (List.mem_cons_of_mem _ h)
          · exact .inr h

theorem cellsWrite_rising (l : List (Nat × Int)) (hl : rising l) (a : Nat) (v : Int) :
    rising (cellsWrite l a v) := by
  induction l with
  | nil => by_cases hv : v = Memory.unlisted <;> simp [cellsWrite, hv]
  | cons d l ih =>
    obtain ⟨hd, hl'⟩ := List.pairwise_cons.mp hl
    by_cases hlt : a < d.1
    · by_cases hv : v = Memory.unlisted
      · simpa [cellsWrite, hlt, hv] using And.intro hd hl'
      · simp only [cellsWrite, hlt, hv, if_true, if_false]
        refine List.pairwise_cons.mpr ⟨?_, hl⟩
        intro e he
        rcases List.mem_cons.mp he with rfl | he
        · exact hlt
        · exact lt_trans hlt (hd e he)
    · by_cases heq : a = d.1
      · by_cases hv : v = Memory.unlisted
        · simpa [cellsWrite, heq, hv] using hl'
        · simp only [cellsWrite, heq, hv, lt_irrefl, if_true, if_false]
          exact List.pairwise_cons.mpr ⟨hd, hl'⟩
      · simp only [cellsWrite, hlt, heq, if_false]
        refine List.pairwise_cons.mpr ⟨?_, ih hl'⟩
        intro e he
        rcases mem_cellsWrite l a v e he with h | ⟨rfl, _⟩
        · exact hd e h
        · show d.1 < a
          omega

/-- Reading back the index just written. -/
theorem Memory.read_write_same (m : Memory) (hm : m.wf) (a : Nat) (v : Int) : (m.write a v).read a = v :=
  cellsRead_write_same m.cells hm.1 a v

/-- A write leaves every other index alone. -/
theorem Memory.read_write_other (m : Memory) (a b : Nat) (v : Int) (h : b ≠ a) :
    (m.write a v).read b = m.read b :=
  cellsRead_write_other m.cells a b v h

/-- Every write keeps the canonical form. -/
theorem Memory.write_wf (m : Memory) (hm : m.wf) (a : Nat) (v : Int) : (m.write a v).wf := by
  refine ⟨cellsWrite_rising m.cells hm.1 a v, fun c hc => ?_⟩
  rcases mem_cellsWrite m.cells a v c hc with h | ⟨rfl, hv⟩
  · exact hm.2 c h
  · exact hv

/-- A write at an index that exists keeps every listed index one that exists. -/
theorem Memory.write_below (m : Memory) (n : Nat) (hm : m.below n) (a : Nat) (ha : a < n) (v : Int) :
    (m.write a v).below n := by
  intro c hc
  rcases mem_cellsWrite m.cells a v c hc with h | ⟨rfl, _⟩
  · exact hm c h
  · exact ha

/-- The reset memory, which lists nothing, has the canonical form. -/
theorem Memory.empty_wf : ({ cells := [] } : Memory).wf := by simp [Memory.wf]

theorem cellsRead_head (a : Nat) (v : Int) (l : List (Nat × Int)) : cellsRead ((a, v) :: l) a = v := by
  simp [cellsRead]

/-- Memories in canonical form that read alike are equal data. -/
theorem Memory.ext_of_read (m n : Memory) (hm : m.wf) (hn : n.wf) (h : ∀ a, m.read a = n.read a) : m = n := by
  suffices hcells : ∀ l k : List (Nat × Int), rising l → rising k →
      (∀ c ∈ l, c.2 ≠ Memory.unlisted) → (∀ c ∈ k, c.2 ≠ Memory.unlisted) →
      (∀ a, cellsRead l a = cellsRead k a) → l = k by
    cases m; cases n
    congr
    exact hcells _ _ hm.1 hn.1 hm.2 hn.2 h
  intro l
  induction l with
  | nil =>
    intro k _ _ _ hkv hr
    cases k with
    | nil => rfl
    | cons d k =>
      have := hr d.1
      rw [cellsRead_head] at this
      exact absurd this.symm (hkv d (by simp))
  | cons c l ih =>
    intro k hl hk hlv hkv hr
    cases k with
    | nil =>
      have := hr c.1
      rw [cellsRead_head] at this
      exact absurd this (hlv c (by simp))
    | cons d k =>
      obtain ⟨hc, hl'⟩ := List.pairwise_cons.mp hl
      obtain ⟨hd, hk'⟩ := List.pairwise_cons.mp hk
      have key : c.1 = d.1 := by
        rcases lt_trichotomy c.1 d.1 with hlt | heq | hgt
        · have h1 := hr c.1
          rw [cellsRead_head, cellsRead_below (d :: k) c.1] at h1
          · exact absurd h1 (hlv c (by simp))
          · intro e he
            rcases List.mem_cons.mp he with rfl | he
            · exact hlt
            · exact lt_trans hlt (hd e he)
        · exact heq
        · have h1 := hr d.1
          rw [cellsRead_head, cellsRead_below (c :: l) d.1] at h1
          · exact absurd h1.symm (hkv d (by simp))
          · intro e he
            rcases List.mem_cons.mp he with rfl | he
            · exact hgt
            · exact lt_trans hgt (hc e he)
      obtain ⟨ck, cv⟩ := c
      obtain ⟨dk, dv⟩ := d
      simp only at key
      subst key
      have hval : cv = dv := by
        have := hr ck
        rwa [cellsRead_head, cellsRead_head] at this
      subst hval
      congr 1
      refine ih k hl' hk' (fun e he => hlv e (by simp [he])) (fun e he => hkv e (by simp [he])) (fun a => ?_)
      by_cases ha : ck = a
      · subst ha
        rw [cellsRead_below l _ hc, cellsRead_below k _ hd]
      · have := hr a
        simpa [cellsRead, ha] using this

end Sys2Proof.Machine
end

