-- ==== Sys2Proof/Laws/State.lean ====
section
/-! SUPPORT. One lemma per field per named update of the state, and the fields of the reset state. -/

namespace Sys2Proof.Machine

section takeFault
variable (k : FaultKind) (s : State)
@[simp] theorem takeFault_pc : (takeFault k s).pc = s.pc := rfl
@[simp] theorem takeFault_sp : (takeFault k s).sp = s.sp := rfl
@[simp] theorem takeFault_fp : (takeFault k s).fp = s.fp := rfl
@[simp] theorem takeFault_stack : (takeFault k s).stack = s.stack := rfl
@[simp] theorem takeFault_data : (takeFault k s).data = s.data := rfl
@[simp] theorem takeFault_out : (takeFault k s).out = s.out := rfl
@[simp] theorem takeFault_status : (takeFault k s).status = .faulted k s.pc := rfl
@[simp] theorem takeFault_params : (takeFault k s).params = s.params := rfl
end takeFault

section fetched
variable (n : Nat) (s : State)
@[simp] theorem fetched_pc : (fetched n s).pc = s.pc + n := rfl
@[simp] theorem fetched_sp : (fetched n s).sp = s.sp := rfl
@[simp] theorem fetched_fp : (fetched n s).fp = s.fp := rfl
@[simp] theorem fetched_stack : (fetched n s).stack = s.stack := rfl
@[simp] theorem fetched_data : (fetched n s).data = s.data := rfl
@[simp] theorem fetched_out : (fetched n s).out = s.out := rfl
@[simp] theorem fetched_status : (fetched n s).status = s.status := rfl
@[simp] theorem fetched_params : (fetched n s).params = s.params := rfl
@[simp] theorem fetched_codeSize : (fetched n s).codeSize = s.codeSize := rfl
end fetched

section construct
variable (p : Params)
@[simp] theorem construct_pc : (State.construct p).pc = p.entryPc := rfl
@[simp] theorem construct_sp : (State.construct p).sp = -1 := rfl
@[simp] theorem construct_fp : (State.construct p).fp = 0 := rfl
@[simp] theorem construct_stack : (State.construct p).stack = { cells := [] } := rfl
@[simp] theorem construct_data : (State.construct p).data = { cells := [] } := rfl
@[simp] theorem construct_out : (State.construct p).out = [] := rfl
@[simp] theorem construct_status : (State.construct p).status = .running := rfl
@[simp] theorem construct_params : (State.construct p).params = p := rfl
end construct

end Sys2Proof.Machine
end

