-- ==== Sys2Proof/Laws/Ops.lean ====
section
/-! SUPPORT. For each shared operation one lemma that says once everything it can do: if it answers, then with what,
and when it stops, with which reason. -/

namespace Sys2Proof.Machine

/-- A sequence of two operations answers exactly when both do. -/
theorem bind_eq_ok {α β : Type} (x : Except Stop α) (f : α → Except Stop β) (b : β) :
    (x >>= f) = .ok b ↔ ∃ a, x = .ok a ∧ f a = .ok b := by
  cases x with
  | error e => constructor <;> simp [bind, Except.bind]
  | ok a => simp [bind, Except.bind]

@[simp] theorem ok_bind {α β : Type} (a : α) (f : α → Except Stop β) : (Except.ok a >>= f) = f a := rfl

@[simp] theorem error_bind {α β : Type} (e : Stop) (f : α → Except Stop β) :
    ((Except.error e : Except Stop α) >>= f) = .error e := rfl

@[simp] theorem pure_eq_ok {α : Type} (a : α) : (pure a : Except Stop α) = .ok a := rfl

@[simp] theorem require_true {c : Prop} [Decidable c] (k : FaultKind) (h : c) : require c k = .ok () := by
  simp [require, h]

@[simp] theorem require_false {c : Prop} [Decidable c] (k : FaultKind) (h : ¬c) :
    require c k = .error (.raised k) := by
  simp [require, h]

theorem require_eq_ok {c : Prop} [Decidable c] {k : FaultKind} {u : Unit} : require c k = .ok u ↔ c := by
  by_cases h : c <;> simp [h]

/-- An instruction answers a next state exactly when its pseudocode commits one or raises a fault. -/
theorem commit_eq_next {s t : State} {r : Except Stop State} :
    commit s r = .next t ↔ r = .ok t ∨ ∃ k, r = .error (.raised k) ∧ t = takeFault k s := by
  rcases r with (k | f) | u <;> simp [commit, eq_comm]

@[simp] theorem commit_ok (s t : State) : commit s (.ok t) = .next t := rfl
@[simp] theorem commit_raised (s : State) (k : FaultKind) :
    commit s (.error (.raised k)) = .next (takeFault k s) := rfl
@[simp] theorem commit_stuck (s : State) (f : Fault) : commit s (.error (.stuck f)) = .fault f := rfl

/-- A checked value answers exactly when its check holds. -/
theorem ite_eq_ok {α : Type} {c : Prop} [Decidable c] {a b : α} {e : Stop} :
    (if c then (.ok a : Except Stop α) else .error e) = .ok b ↔ c ∧ b = a := by
  by_cases h : c
  · simp only [h, if_true, Except.ok.injEq, true_and]
    exact eq_comm
  · simp [h]

theorem slot_of_hasSlot {s : State} {i : Int} (h : s.hasSlot i) : slot i s = .ok (s.stack.read i.toNat) :=
  if_pos h

theorem slot_eq_ok {s : State} {i : Int} {v : Int} :
    slot i s = .ok v ↔ s.hasSlot i ∧ v = s.stack.read i.toNat :=
  ite_eq_ok

theorem setSlot_eq_ok {s t : State} {i : Int} {v : Int} :
    setSlot i v s = .ok t ↔ s.hasSlot i ∧ t = { s with stack := s.stack.write i.toNat v } :=
  ite_eq_ok

/-- Everything a push that answers does (R47). -/
theorem push_eq_ok {s t : State} {v : Int} :
    push v s = .ok t ↔ s.hasSlot (s.sp + 1) ∧
      t = { s with sp := s.sp + 1, stack := s.stack.write (s.sp + 1).toNat v } := by
  simp only [push, bind_eq_ok, require_eq_ok, setSlot_eq_ok, pure_eq_ok, Except.ok.injEq]
  constructor
  · rintro ⟨_, _, s1, ⟨h, rfl⟩, rfl⟩
    exact ⟨h, rfl⟩
  · rintro ⟨h, rfl⟩
    exact ⟨(), h.2, _, ⟨h, rfl⟩, rfl⟩

/-- A push that finds no free slot raises StackOverflow (R47). -/
theorem push_full {s : State} (v : Int) (h : s.params.stackCapacity ≤ s.sp + 1) :
    push v s = .error (.raised .stackOverflow) := by
  have : ¬ s.sp + 1 < s.params.stackCapacity := by omega
  simp [push, this]

/-- Everything a pop that answers does (R48). -/
theorem pop_eq_ok {s t : State} {v : Int} :
    pop s = .ok (v, t) ↔ floorOf s.fp ≤ s.sp ∧ s.hasSlot s.sp ∧
      v = s.stack.read s.sp.toNat ∧ t = { s with sp := s.sp - 1 } := by
  simp only [pop, bind_eq_ok, require_eq_ok, slot_eq_ok, pure_eq_ok, Except.ok.injEq, Prod.mk.injEq]
  constructor
  · rintro ⟨_, h, w, ⟨h0, rfl⟩, rfl, rfl⟩
    exact ⟨h, h0, rfl, rfl⟩
  · rintro ⟨h, h0, rfl, rfl⟩
    exact ⟨(), h, _, ⟨h0, rfl⟩, rfl, rfl⟩

/-- A pop below the floor raises StackUnderflow (R48). -/
theorem pop_under {s : State} (h : s.sp < floorOf s.fp) : pop s = .error (.raised .stackUnderflow) := by
  have : ¬ floorOf s.fp ≤ s.sp := by omega
  simp [pop, this]

/-- Everything a frame-relative read that answers does (R49). -/
theorem stackRead_eq_ok {s : State} {i : Int} {v : Int} :
    stackRead i s = .ok v ↔ (0 ≤ i ∧ i ≤ s.sp) ∧ s.hasSlot i ∧ v = s.stack.read i.toNat := by
  simp only [stackRead, bind_eq_ok, require_eq_ok, slot_eq_ok]
  constructor
  · rintro ⟨_, h, h0⟩
    exact ⟨h, h0⟩
  · rintro ⟨h, h0⟩
    exact ⟨(), h, h0⟩

/-- A frame-relative read outside [0, sp] raises InvalidMemoryAddress (R49). -/
theorem stackRead_out {s : State} {i : Int} (h : ¬(0 ≤ i ∧ i ≤ s.sp)) :
    stackRead i s = .error (.raised .invalidMemoryAddress) := by
  simp only [stackRead, require_false _ h, error_bind]

/-- Everything a data read that answers does (R51). -/
theorem memRead_eq_ok {s : State} {a : Int} {v : Int} :
    memRead a s = .ok v ↔ s.hasCell a ∧ v = s.data.read a.toNat := by
  simp only [memRead, bind_eq_ok, require_eq_ok, pure_eq_ok, Except.ok.injEq]
  constructor
  · rintro ⟨_, h, rfl⟩
    exact ⟨h, rfl⟩
  · rintro ⟨h, rfl⟩
    exact ⟨(), h, rfl⟩

/-- A data read outside [0, D-1] raises InvalidMemoryAddress (R51). -/
theorem memRead_out {s : State} {a : Int} (h : ¬s.hasCell a) :
    memRead a s = .error (.raised .invalidMemoryAddress) := by
  simp only [memRead, require_false _ h, error_bind]

/-- Everything a data write that answers does (R52). -/
theorem memWrite_eq_ok {s t : State} {a : Int} {v : Int} :
    memWrite a v s = .ok t ↔ s.hasCell a ∧ t = { s with data := s.data.write a.toNat v } := by
  simp only [memWrite, bind_eq_ok, require_eq_ok, pure_eq_ok, Except.ok.injEq]
  constructor
  · rintro ⟨_, h, rfl⟩
    exact ⟨h, rfl⟩
  · rintro ⟨h, rfl⟩
    exact ⟨(), h, rfl⟩

/-- A data write outside [0, D-1] raises InvalidMemoryAddress (R52). -/
theorem memWrite_out {s : State} {a : Int} (v : Int) (h : ¬s.hasCell a) :
    memWrite a v s = .error (.raised .invalidMemoryAddress) := by
  simp only [memWrite, require_false _ h, error_bind]

/-- Everything a control transfer that answers does (R87). -/
theorem transfer_eq_ok {s t : State} {target : Int} :
    transfer target s = .ok t ↔ s.inCode target ∧ t = { s with pc := target } := by
  simp only [transfer, bind_eq_ok, require_eq_ok, pure_eq_ok, Except.ok.injEq]
  constructor
  · rintro ⟨_, h, rfl⟩
    exact ⟨h, rfl⟩
  · rintro ⟨h, rfl⟩
    exact ⟨(), h, rfl⟩

/-- A control transfer to a target outside [0, N-1] raises InvalidCodeAddress (R87). -/
theorem transfer_out {s : State} {target : Int} (h : ¬s.inCode target) :
    transfer target s = .error (.raised .invalidCodeAddress) := by
  simp only [transfer, require_false _ h, error_bind]

/-- Everything the binary operand protocol does when it answers (R78). -/
theorem binary_eq_ok {s t : State} {f : Int → Int → Int} :
    binary f s = .ok t ↔ floorOf s.fp ≤ s.sp - 1 ∧ s.hasSlot s.sp ∧ s.hasSlot (s.sp - 1) ∧
      t = { s with
            sp := s.sp - 1
            stack := s.stack.write (s.sp - 1).toNat
              (f (s.stack.read (s.sp - 1).toNat) (s.stack.read s.sp.toNat)) } := by
  simp only [binary, bind_eq_ok, Prod.exists, pop_eq_ok, push_eq_ok]
  constructor
  · rintro ⟨b, s1, ⟨h1, h2, rfl, rfl⟩, a, s2, ⟨h3, h4, rfl, rfl⟩, h5, rfl⟩
    have e : s.sp - 1 - 1 + 1 = s.sp - 1 := by omega
    exact ⟨h3, h2, h4, by simp [e]⟩
  · rintro ⟨h1, h2, h3, rfl⟩
    have e : s.sp - 1 - 1 + 1 = s.sp - 1 := by omega
    refine ⟨_, _, ⟨by omega, h2, rfl, rfl⟩, _, _, ⟨h1, h3, rfl, rfl⟩, ?_, by simp [e]⟩
    simpa [e, State.hasSlot] using h3

/-- Everything the three pushes of a CALL do when they answer (R100, R103). -/
theorem pushFrame_eq_ok {s t : State} {argc : Int} :
    pushFrame argc s = .ok t ↔ 0 ≤ s.sp + 1 ∧ s.sp + 3 < s.params.stackCapacity ∧
      t = { s with
            sp := s.sp + 3
            fp := s.sp + 3
            stack := ((s.stack.write (s.sp + 1).toNat argc).write (s.sp + 2).toNat s.fp).write
              (s.sp + 3).toNat s.pc } := by
  have e2 : s.sp + 1 + 1 = s.sp + 2 := by omega
  have e3 : s.sp + 2 + 1 = s.sp + 3 := by omega
  simp only [pushFrame, bind_eq_ok, push_eq_ok]
  constructor
  · rintro ⟨s1, ⟨h1, rfl⟩, s2, ⟨h2, rfl⟩, s3, ⟨h3, rfl⟩, h⟩
    simp only [State.hasSlot, e2, e3] at *
    refine ⟨h1.1, h3.2, ?_⟩
    simpa [eq_comm] using h
  · rintro ⟨h1, h2, rfl⟩
    refine ⟨_, ⟨⟨h1, by omega⟩, rfl⟩, _, ⟨⟨?_, ?_⟩, rfl⟩, _, ⟨⟨?_, ?_⟩, rfl⟩, ?_⟩
    · show 0 ≤ s.sp + 1 + 1
      omega
    · show s.sp + 1 + 1 < (s.params.stackCapacity : Int)
      omega
    · show 0 ≤ s.sp + 1 + 1 + 1
      omega
    · show s.sp + 1 + 1 + 1 < (s.params.stackCapacity : Int)
      omega
    · simp only [e2, e3, pure_eq_ok]

/-- Everything RET's reads of the frame words answer (R105). -/
theorem readFrame_eq_ok {s : State} {f : Frame} :
    readFrame s = .ok f ↔ s.hasSlot s.fp ∧ s.hasSlot (s.fp - 1) ∧ s.hasSlot (s.fp - 2) ∧
      f = { retPc := s.stack.read s.fp.toNat
            oldFp := s.stack.read (s.fp - 1).toNat
            argc := s.stack.read (s.fp - 2).toNat } := by
  simp only [readFrame, bind_eq_ok, slot_eq_ok]
  constructor
  · rintro ⟨a, ⟨h1, rfl⟩, b, ⟨h2, rfl⟩, c, ⟨h3, rfl⟩, h⟩
    exact ⟨h1, h2, h3, by simpa [eq_comm] using h⟩
  · rintro ⟨h1, h2, h3, rfl⟩
    exact ⟨_, ⟨h1, rfl⟩, _, ⟨h2, rfl⟩, _, ⟨h3, rfl⟩, rfl⟩

/-- Everything the unwinding of a frame does when it answers (R105). -/
theorem unwindFrame_eq_ok {s t : State} (h : unwindFrame s = .ok t) :
    ∃ retPc oldFp argc : Int,
      retPc = s.stack.read s.fp.toNat ∧ oldFp = s.stack.read (s.fp - 1).toNat ∧
      argc = s.stack.read (s.fp - 2).toNat ∧
      (floorOf s.fp ≤ s.sp ∧ s.hasSlot s.sp) ∧ 2 ≤ s.fp ∧ 0 ≤ argc ∧
      floorOf oldFp - 1 ≤ s.fp - 3 - argc ∧
      s.inCode retPc ∧ s.hasSlot (s.fp - 2 - argc) ∧
      t = { s with
            pc := retPc
            sp := s.fp - 2 - argc
            fp := oldFp
            stack := s.stack.write (s.fp - 2 - argc).toNat (s.stack.read s.sp.toNat) } := by
  obtain ⟨⟨v, s1⟩, hp, h⟩ := (bind_eq_ok _ _ _).mp h
  obtain ⟨h1, h2, rfl, rfl⟩ := pop_eq_ok.mp hp
  obtain ⟨_, hr, h⟩ := (bind_eq_ok _ _ _).mp h
  have h3 := require_eq_ok.mp hr
  obtain ⟨f, hf, h⟩ := (bind_eq_ok _ _ _).mp h
  obtain ⟨_, _, _, rfl⟩ := readFrame_eq_ok.mp hf
  obtain ⟨_, hr, h⟩ := (bind_eq_ok _ _ _).mp h
  have h4 := require_eq_ok.mp hr
  obtain ⟨s2, ht, h⟩ := (bind_eq_ok _ _ _).mp h
  obtain ⟨h5, rfl⟩ := transfer_eq_ok.mp ht
  obtain ⟨h6, rfl⟩ := push_eq_ok.mp h
  have e : ∀ n : Int, s.fp - 3 - n + 1 = s.fp - 2 - n := fun n => by omega
  simp only [e] at h6 ⊢
  exact ⟨_, _, _, rfl, rfl, rfl, ⟨h1, h2⟩, h3, h4.1, h4.2, h5, h6, rfl⟩

/-- Everything FetchCode does when it answers (R44). -/
theorem fetchCode_eq_ok {s t : State} {w : Int} :
    fetchCode s = .ok (w, t) ↔ s.inCode s.pc ∧ w = s.params.code.getD s.pc.toNat 0 ∧
      t = { s with pc := s.pc + 1 } := by
  simp only [fetchCode, bind_eq_ok, require_eq_ok, pure_eq_ok, Except.ok.injEq, Prod.mk.injEq]
  constructor
  · rintro ⟨_, h, rfl, rfl⟩
    exact ⟨h, rfl, rfl⟩
  · rintro ⟨h, rfl, rfl⟩
    exact ⟨(), h, rfl, rfl⟩

theorem floorOf_zero : floorOf 0 = 0 := if_pos rfl

theorem floorOf_of_ne {fp : Int} (h : fp ≠ 0) : floorOf fp = fp + 1 := if_neg h

end Sys2Proof.Machine
end

