-- ==== Sys2Proof/Laws/Exec.lean ====
section
/-! SUPPORT. One inversion lemma per instruction: if `exec` answers a next state, it took a fault, or its guards held
and this is the state it committed. -/

namespace Sys2Proof.Machine

/-- A fault is taken, or `P`. -/
abbrev FaultOr (s t : State) (P : Prop) : Prop := (∃ k, t = takeFault k s) ∨ P

theorem commit_cases {s t : State} {r : Except Stop State} {P : Prop} (h : commit s r = .next t)
    (hok : r = .ok t → P) : FaultOr s t P := by
  rcases commit_eq_next.mp h with h | ⟨k, _, h⟩
  · exact .inr (hok h)
  · exact .inl ⟨k, h⟩

theorem exec_const_next {v : Int} {s t : State} (h : exec (.const v) s = .next t) :
    FaultOr s t (s.hasSlot (s.sp + 1) ∧
      t = { s with pc := s.pc + 2, sp := s.sp + 1, stack := s.stack.write (s.sp + 1).toNat v }) :=
  commit_cases h fun h => push_eq_ok.mp h

/-- The guards of a binary instruction, and the state it commits, for the value `f` it pushes. -/
abbrev BinaryCommits (f : Int → Int → Int) (s t : State) : Prop :=
  floorOf s.fp ≤ s.sp - 1 ∧ s.hasSlot s.sp ∧ s.hasSlot (s.sp - 1) ∧
    t = { s with
          pc := s.pc + 1
          sp := s.sp - 1
          stack := s.stack.write (s.sp - 1).toNat
            (f (s.stack.read (s.sp - 1).toNat) (s.stack.read s.sp.toNat)) }

theorem exec_add_next {s t : State} (h : exec .add s = .next t) :
    FaultOr s t (BinaryCommits (fun a b => wrapW s.params.wordBits (a + b)) s t) :=
  commit_cases h fun h => binary_eq_ok.mp h

theorem exec_sub_next {s t : State} (h : exec .sub s = .next t) :
    FaultOr s t (BinaryCommits (fun a b => wrapW s.params.wordBits (a - b)) s t) :=
  commit_cases h fun h => binary_eq_ok.mp h

theorem exec_mul_next {s t : State} (h : exec .mul s = .next t) :
    FaultOr s t (BinaryCommits (fun a b => wrapW s.params.wordBits (a * b)) s t) :=
  commit_cases h fun h => binary_eq_ok.mp h

theorem exec_lt_next {s t : State} (h : exec .lt s = .next t) :
    FaultOr s t (BinaryCommits (fun a b => truthWord (decide (a > b))) s t) :=
  commit_cases h fun h => binary_eq_ok.mp h

theorem exec_eq_next {s t : State} (h : exec .eq s = .next t) :
    FaultOr s t (BinaryCommits (fun a b => truthWord (decide (a = b))) s t) :=
  commit_cases h fun h => binary_eq_ok.mp h

theorem exec_jmp_next {a : Int} {s t : State} (h : exec (.jmp a) s = .next t) :
    FaultOr s t (s.inCode a ∧ t = { s with pc := a }) :=
  commit_cases h fun h => transfer_eq_ok.mp h

/-- The guard of an instruction that pops one word, and of every one that pops first (R48). -/
abbrev State.canPop (s : State) : Prop := floorOf s.fp ≤ s.sp ∧ s.hasSlot s.sp

theorem exec_jmpt_next {a : Int} {s t : State} (h : exec (.jmpt a) s = .next t) :
    FaultOr s t (s.canPop ∧
      ((truthy (s.stack.read s.sp.toNat) = true ∧ s.inCode a ∧ t = { s with pc := a, sp := s.sp - 1 }) ∨
        (truthy (s.stack.read s.sp.toNat) = false ∧ t = { s with pc := s.pc + 2, sp := s.sp - 1 }))) := by
  refine commit_cases h fun h => ?_
  obtain ⟨⟨v, s1⟩, hp, h⟩ := (bind_eq_ok _ _ _).mp h
  obtain ⟨h1, h2, rfl, rfl⟩ := pop_eq_ok.mp hp
  refine ⟨⟨h1, h2⟩, ?_⟩
  by_cases hv : truthy (s.stack.read s.sp.toNat) = true
  · obtain ⟨h3, rfl⟩ := transfer_eq_ok.mp ((if_pos hv).symm.trans h)
    exact .inl ⟨hv, h3, rfl⟩
  · cases (if_neg hv).symm.trans h
    exact .inr ⟨by simpa using hv, rfl⟩

theorem exec_jmpf_next {a : Int} {s t : State} (h : exec (.jmpf a) s = .next t) :
    FaultOr s t (s.canPop ∧
      ((truthy (s.stack.read s.sp.toNat) = false ∧ s.inCode a ∧ t = { s with pc := a, sp := s.sp - 1 }) ∨
        (truthy (s.stack.read s.sp.toNat) = true ∧ t = { s with pc := s.pc + 2, sp := s.sp - 1 }))) := by
  refine commit_cases h fun h => ?_
  obtain ⟨⟨v, s1⟩, hp, h⟩ := (bind_eq_ok _ _ _).mp h
  obtain ⟨h1, h2, rfl, rfl⟩ := pop_eq_ok.mp hp
  refine ⟨⟨h1, h2⟩, ?_⟩
  by_cases hv : truthy (s.stack.read s.sp.toNat) = true
  · cases (if_pos hv).symm.trans h
    exact .inr ⟨hv, rfl⟩
  · obtain ⟨h3, rfl⟩ := transfer_eq_ok.mp ((if_neg hv).symm.trans h)
    exact .inl ⟨by simpa using hv, h3, rfl⟩

theorem exec_gload_next {s t : State} (h : exec .gload s = .next t) :
    FaultOr s t (s.canPop ∧ s.hasCell (s.stack.read s.sp.toNat) ∧
      t = { s with
            pc := s.pc + 1
            stack := s.stack.write s.sp.toNat (s.data.read (s.stack.read s.sp.toNat).toNat) }) := by
  refine commit_cases h fun h => ?_
  obtain ⟨⟨a, s1⟩, hp, h⟩ := (bind_eq_ok _ _ _).mp h
  obtain ⟨h1, h2, rfl, rfl⟩ := pop_eq_ok.mp hp
  obtain ⟨v, hr, h⟩ := (bind_eq_ok _ _ _).mp h
  obtain ⟨h3, rfl⟩ := memRead_eq_ok.mp hr
  obtain ⟨h4, rfl⟩ := push_eq_ok.mp h
  have e : s.sp - 1 + 1 = s.sp := by omega
  refine ⟨⟨h1, h2⟩, h3, ?_⟩
  simp only [fetched_sp, e]
  rfl

theorem exec_gstore_next {a : Int} {s t : State} (h : exec (.gstore a) s = .next t) :
    FaultOr s t (s.canPop ∧ s.hasCell (absolute a) ∧
      t = { s with
            pc := s.pc + 2
            sp := s.sp - 1
            data := s.data.write (absolute a).toNat (s.stack.read s.sp.toNat) }) := by
  refine commit_cases h fun h => ?_
  obtain ⟨⟨v, s1⟩, hp, h⟩ := (bind_eq_ok _ _ _).mp h
  obtain ⟨h1, h2, rfl, rfl⟩ := pop_eq_ok.mp hp
  obtain ⟨h3, rfl⟩ := memWrite_eq_ok.mp h
  exact ⟨⟨h1, h2⟩, h3, rfl⟩

theorem exec_load_next {off : Int} {s t : State} (h : exec (.load off) s = .next t) :
    FaultOr s t ((0 ≤ frameUp s off ∧ frameUp s off ≤ s.sp) ∧ s.hasSlot (s.sp + 1) ∧
      t = { s with
            pc := s.pc + 2
            sp := s.sp + 1
            stack := s.stack.write (s.sp + 1).toNat (s.stack.read (frameUp s off).toNat) }) := by
  refine commit_cases h fun h => ?_
  obtain ⟨v, hr, h⟩ := (bind_eq_ok _ _ _).mp h
  obtain ⟨h1, _, rfl⟩ := stackRead_eq_ok.mp hr
  obtain ⟨h3, rfl⟩ := push_eq_ok.mp h
  exact ⟨h1, h3, rfl⟩

theorem exec_ldarg_next {off : Int} {s t : State} (h : exec (.ldarg off) s = .next t) :
    FaultOr s t ((0 ≤ frameArg s off ∧ frameArg s off ≤ s.sp) ∧ s.hasSlot (s.sp + 1) ∧
      t = { s with
            pc := s.pc + 2
            sp := s.sp + 1
            stack := s.stack.write (s.sp + 1).toNat (s.stack.read (frameArg s off).toNat) }) := by
  refine commit_cases h fun h => ?_
  obtain ⟨v, hr, h⟩ := (bind_eq_ok _ _ _).mp h
  obtain ⟨h1, _, rfl⟩ := stackRead_eq_ok.mp hr
  obtain ⟨h3, rfl⟩ := push_eq_ok.mp h
  exact ⟨h1, h3, rfl⟩

theorem exec_store_next {off : Int} {s t : State} (h : exec (.store off) s = .next t) :
    FaultOr s t (s.canPop ∧ s.hasCell (frameUp s off) ∧
      t = { s with
            pc := s.pc + 2
            sp := s.sp - 1
            data := s.data.write (frameUp s off).toNat (s.stack.read s.sp.toNat) }) := by
  refine commit_cases h fun h => ?_
  obtain ⟨⟨v, s1⟩, hp, h⟩ := (bind_eq_ok _ _ _).mp h
  obtain ⟨h1, h2, rfl, rfl⟩ := pop_eq_ok.mp hp
  obtain ⟨h3, rfl⟩ := memWrite_eq_ok.mp h
  exact ⟨⟨h1, h2⟩, h3, rfl⟩

theorem exec_call_next {a n : Int} {s t : State} (h : exec (.call a n) s = .next t) :
    FaultOr s t (argcOk n s ∧ 0 ≤ s.sp + 1 ∧ s.sp + 3 < s.params.stackCapacity ∧ s.inCode a ∧
      t = { s with
            pc := a
            sp := s.sp + 3
            fp := s.sp + 3
            stack := ((s.stack.write (s.sp + 1).toNat n).write (s.sp + 2).toNat s.fp).write
              (s.sp + 3).toNat (s.pc + 3) }) := by
  refine commit_cases h fun h => ?_
  obtain ⟨_, hr, h⟩ := (bind_eq_ok _ _ _).mp h
  have h1 := require_eq_ok.mp hr
  obtain ⟨s1, hp, h⟩ := (bind_eq_ok _ _ _).mp h
  obtain ⟨h2, h3, rfl⟩ := pushFrame_eq_ok.mp hp
  obtain ⟨h4, rfl⟩ := transfer_eq_ok.mp h
  exact ⟨h1, h2, h3, h4, rfl⟩

theorem exec_ret_next {s t : State} (h : exec .ret s = .next t) :
    FaultOr s t (∃ retPc oldFp argc : Int,
      retPc = s.stack.read s.fp.toNat ∧ oldFp = s.stack.read (s.fp - 1).toNat ∧
      argc = s.stack.read (s.fp - 2).toNat ∧
      s.canPop ∧ 2 ≤ s.fp ∧ 0 ≤ argc ∧ floorOf oldFp - 1 ≤ s.fp - 3 - argc ∧
      s.inCode retPc ∧ s.hasSlot (s.fp - 2 - argc) ∧
      t = { s with
            pc := retPc
            sp := s.fp - 2 - argc
            fp := oldFp
            stack := s.stack.write (s.fp - 2 - argc).toNat (s.stack.read s.sp.toNat) }) :=
  commit_cases h fun h => unwindFrame_eq_ok (s := fetched 1 s) h

theorem exec_print_next {s t : State} (h : exec .print s = .next t) :
    FaultOr s t (s.canPop ∧
      t = { s with pc := s.pc + 1, sp := s.sp - 1, out := s.out ++ [s.stack.read s.sp.toNat] }) := by
  refine commit_cases h fun h => ?_
  obtain ⟨⟨v, s1⟩, hp, h⟩ := (bind_eq_ok _ _ _).mp h
  obtain ⟨h1, h2, rfl, rfl⟩ := pop_eq_ok.mp hp
  cases h
  exact ⟨⟨h1, h2⟩, rfl⟩

theorem exec_pop_next {s t : State} (h : exec .pop s = .next t) :
    FaultOr s t (s.canPop ∧ t = { s with pc := s.pc + 1, sp := s.sp - 1 }) := by
  refine commit_cases h fun h => ?_
  obtain ⟨⟨v, s1⟩, hp, h⟩ := (bind_eq_ok _ _ _).mp h
  obtain ⟨h1, h2, rfl, rfl⟩ := pop_eq_ok.mp hp
  cases h
  exact ⟨⟨h1, h2⟩, rfl⟩

theorem exec_halt_next {s t : State} (h : exec .halt s = .next t) :
    FaultOr s t (t = { s with pc := s.pc + 1, status := .halted }) :=
  commit_cases (show commit s (.ok _) = _ from h) fun h => (Except.ok.inj h).symm

end Sys2Proof.Machine
end

