-- ==== Sys2Proof/Laws/PerInstr.lean ====
section
/-! SUPPORT. Families of facts about every instruction as syntax, one lemma per constructor. -/

namespace Sys2Proof.Laws.EncodedLength

/-- An instruction is encoded in as many words as its format says, the first of them its opcode (R64). -/
def Statement (i : Instr) : Prop :=
  ∀ om : OpcodeMap, (encode om i).length = i.words ∧ (encode om i).head? = some (om.value i.mnemonic)

theorem const (value : Int) : Statement (.const value) := fun _ => ⟨rfl, rfl⟩
theorem add : Statement .add := fun _ => ⟨rfl, rfl⟩
theorem sub : Statement .sub := fun _ => ⟨rfl, rfl⟩
theorem mul : Statement .mul := fun _ => ⟨rfl, rfl⟩
theorem lt : Statement .lt := fun _ => ⟨rfl, rfl⟩
theorem eq : Statement .eq := fun _ => ⟨rfl, rfl⟩
theorem jmp (addr : Int) : Statement (.jmp addr) := fun _ => ⟨rfl, rfl⟩
theorem jmpt (addr : Int) : Statement (.jmpt addr) := fun _ => ⟨rfl, rfl⟩
theorem jmpf (addr : Int) : Statement (.jmpf addr) := fun _ => ⟨rfl, rfl⟩
theorem gload : Statement .gload := fun _ => ⟨rfl, rfl⟩
theorem gstore (addr : Int) : Statement (.gstore addr) := fun _ => ⟨rfl, rfl⟩
theorem load (offset : Int) : Statement (.load offset) := fun _ => ⟨rfl, rfl⟩
theorem ldarg (offset : Int) : Statement (.ldarg offset) := fun _ => ⟨rfl, rfl⟩
theorem store (offset : Int) : Statement (.store offset) := fun _ => ⟨rfl, rfl⟩
theorem call (addr argc : Int) : Statement (.call addr argc) := fun _ => ⟨rfl, rfl⟩
theorem ret : Statement .ret := fun _ => ⟨rfl, rfl⟩
theorem print : Statement .print := fun _ => ⟨rfl, rfl⟩
theorem pop : Statement .pop := fun _ => ⟨rfl, rfl⟩
theorem halt : Statement .halt := fun _ => ⟨rfl, rfl⟩

end Sys2Proof.Laws.EncodedLength
end

