-- ==== Sys2Proof/Laws/Run.lean ====
section
/-! SUPPORT. What the host's `Core.run` does with one step of the machine. -/

namespace Sys2Proof.Machine

/-- A step that has a next state takes one of the host's steps. -/
theorem core_run_next {s t : State} (k : Nat) (h : step s = .next t) :
    Host.Core.run Sys2Proof.core (k + 1) s = Host.Core.run Sys2Proof.core k t := by
  have hc : Sys2Proof.core.step s = .next t := h
  simp only [Host.Core.run, hc]

/-- A host's run of k + 1 steps that has a next state began with a step that has one. -/
theorem core_run_succ_eq_next {s u : State} {k : Nat} (h : Host.Core.run Sys2Proof.core (k + 1) s = .next u) :
    ∃ t, step s = .next t ∧ Host.Core.run Sys2Proof.core k t = .next u := by
  cases hs : step s with
  | next t => exact ⟨t, rfl, (core_run_next k hs).symm.trans h⟩
  | fault f =>
    have hc : Sys2Proof.core.step s = .fault f := hs
    simp only [Host.Core.run, hc] at h
    cases h
  | refused f =>
    have hc : Sys2Proof.core.step s = .refused f := hs
    simp only [Host.Core.run, hc] at h
    cases h

end Sys2Proof.Machine
end

