-- ==== Sys2Proof/Laws/Word.lean ====
section
/-! SUPPORT. Small lemmas about W-bit words. -/

namespace Sys2Proof

theorem one_le_wordHalf (W : Nat) : 1 ≤ wordHalf W := Nat.one_le_two_pow

/-- The modulus of R14 is twice the half. -/
theorem two_pow_eq_wordHalf {W : Nat} (h : 1 ≤ W) : 2 ^ W = 2 * wordHalf W := by
  obtain ⟨n, rfl⟩ := Nat.exists_eq_add_of_le' h
  rw [wordHalf, Nat.add_sub_cancel, Nat.pow_succ, Nat.mul_comm]

theorem isWord_zero (W : Nat) : IsWord W 0 := by
  have := one_le_wordHalf W
  omega

/-- An index below the half is a word (R13). -/
theorem isWord_of_index {W : Nat} {i : Int} (h0 : 0 ≤ i) (h1 : i < wordHalf W) : IsWord W i := by
  omega

/-- A truth value is a word where words have at least two bits (R86). -/
theorem isWord_truthWord {W : Nat} (h : 2 ≤ wordHalf W) (b : Bool) : IsWord W (Machine.truthWord b) := by
  cases b <;> simp only [Machine.truthWord] <;> simp <;> omega

end Sys2Proof
end

