-- ==== Sys2Proof/Laws/Safety.lean ====
section
/-! SUPPORT. Small lemmas about the terms of Safety: the shape of a frame chain, the parts of `Sound`, and memories of
W-bit words. -/

namespace Sys2Proof.Machine

/-- A frame chain is the top level, or one frame and its caller's chain. -/
theorem frames_iff {n : Nat} {st : Memory} {fp : Int} :
    Frames n st fp ↔ fp = 0 ∨
      (2 ≤ fp ∧ 0 ≤ st.read (fp - 2).toNat ∧
        floorOf (st.read (fp - 1).toNat) - 1 ≤ fp - 3 - st.read (fp - 2).toNat ∧
        (0 ≤ st.read fp.toNat ∧ st.read fp.toNat ≤ n) ∧
        Frames n st (st.read (fp - 1).toNat)) := by
  constructor
  · intro h
    cases h with
    | top => exact .inl rfl
    | callee _ h1 h2 h3 h4 h5 => exact .inr ⟨h1, h2, h3, h4, h5⟩
  · rintro (rfl | ⟨h1, h2, h3, h4, h5⟩)
    · exact .top
    · exact .callee fp h1 h2 h3 h4 h5

theorem State.Sound.inRange {s : State} (h : s.Sound) : s.params.InRange := h.1
theorem State.Sound.sp_ge {s : State} (h : s.Sound) : -1 ≤ s.sp := h.2.1
theorem State.Sound.sp_lt {s : State} (h : s.Sound) : s.sp < s.params.stackCapacity := h.2.2.1
theorem State.Sound.fp_legal {s : State} (h : s.Sound) : s.fp = 0 ∨ 2 ≤ s.fp := h.2.2.2.1
theorem State.Sound.floor_le {s : State} (h : s.Sound) : floorOf s.fp - 1 ≤ s.sp := h.2.2.2.2.1
theorem State.Sound.stack_wf {s : State} (h : s.Sound) : s.stack.wf := h.2.2.2.2.2.1
theorem State.Sound.data_wf {s : State} (h : s.Sound) : s.data.wf := h.2.2.2.2.2.2

/-- Under parameters in range a word has at least two bits: three opcodes have three values. -/
theorem two_le_wordHalf {p : Params} (h : p.InRange) : 2 ≤ wordHalf p.wordBits := by
  have hw : ∀ m, IsWord p.wordBits (p.opcodes.value m) := fun m => h.2.2.2.2.2.1 m m.mem_all
  have hi : ∀ {m n : Mnemonic}, p.opcodes.value m = p.opcodes.value n → m = n := fun e => h.2.2.2.2.1.eq e
  have h1 := hw .const
  have h2 := hw .add
  have h3 := hw .sub
  have n1 : p.opcodes.value .const ≠ p.opcodes.value .add := fun e => nomatch hi e
  have n2 : p.opcodes.value .const ≠ p.opcodes.value .sub := fun e => nomatch hi e
  have n3 : p.opcodes.value .add ≠ p.opcodes.value .sub := fun e => nomatch hi e
  omega

/-- A memory of W-bit words reads as one everywhere (R28, R29). -/
theorem Memory.read_words {W : Nat} {m : Memory} (h : m.words W) (a : Nat) : IsWord W (m.read a) := by
  obtain ⟨l⟩ := m
  induction l with
  | nil => exact isWord_zero W
  | cons c l ih =>
    by_cases ha : c.1 = a
    · simpa [Memory.read, cellsRead, ha] using h c (by simp)
    · simpa [Memory.read, cellsRead, ha] using ih (fun d hd => h d (by simp [hd]))

/-- Writing a W-bit word keeps a memory of W-bit words one. -/
theorem Memory.write_words {W : Nat} {m : Memory} (h : m.words W) (a : Nat) {v : Int} (hv : IsWord W v) :
    (m.write a v).words W := fun c hc => by
  rcases mem_cellsWrite m.cells a v c hc with hc | ⟨rfl, _⟩
  · exact h c hc
  · exact hv

end Sys2Proof.Machine
end

