-- ==== Sys2Proof/Tests/Slice0.lean ====
section
/-! SUPPORT. Tests whose expected results are the vectors and examples of the spec (95_test_vectors.md; the rules'
own examples), and for every obligation with hypotheses the states that meet them. -/

namespace Sys2Proof.Tests

open Sys2Proof.Machine

/-! ### Helpers -/

/-- The memory that holds these words from index 0 up. -/
def memoryOf (ws : List Int) : Memory :=
  ws.zipIdx.foldl (fun m c => m.write c.2 c.1) { cells := [] }

/-- The set-up of the spec's vectors (95_test_vectors.md section 2): N = 20, C = 100, D = 8, with the instruction's
words at ia = 4, HALT around them, and the stack listed bottom to top. -/
def vector (ws stack : List Int) (fp : Int := 0) : State :=
  { State.construct
      { code := placeWords (List.replicate 20 19) 4 ws
        entryPc := 0
        stackCapacity := 100
        dataSize := 8
        opcodes := defaultOpcodes } with
    pc := 4
    sp := (stack.length : Int) - 1
    fp := fp
    stack := memoryOf stack }

/-- The same, in a CODE that ends with the instruction's words. -/
def lastInCode (ws stack : List Int) (fp : Int := 0) : State :=
  let s := vector ws stack fp
  { s with params := { s.params with code := s.params.code.take (4 + ws.length) } }

/-- A state whose stack is full but for `free` slots: every slot up to sp holds 0. -/
def nearlyFull (free : Nat) (ws : List Int) : State := { vector ws [] with sp := 99 - (free : Int) }

/-- The state after a step, or the state itself where the step has none. -/
def after (s : State) : State :=
  match step s with
  | .next t => t
  | .fault _ => s
  | .refused _ => s

/-- pc, sp, fp and the occupied slots of the stack. -/
def view (s : State) : Int × Int × Int × List Int :=
  (s.pc, s.sp, s.fp, (List.range (s.sp + 1).toNat).map s.stack.read)

/-! ### Well-formedness: one ill-formed term a check -/

theorem test_wf_default_parameters : ({ resetParams with code := [19] } : Params).Wf := by decide

theorem test_wf_refuses_empty_code : ¬({ resetParams with code := [] } : Params).Wf := by decide

theorem test_wf_refuses_a_stack_without_slots : ¬({ resetParams with stackCapacity := 0 } : Params).InRange := by
  decide

theorem test_wf_refuses_a_stack_too_large :
    ¬({ resetParams with stackCapacity := 2147483649 } : Params).InRange := by decide

theorem test_wf_refuses_a_data_memory_too_large :
    ¬({ resetParams with dataSize := 2147483649 } : Params).InRange := by decide

theorem test_wf_refuses_a_code_too_long :
    ¬({ resetParams with code := List.replicate 2147483648 0 } : Params).InRange := fun h => by
  have h1 : (List.replicate 2147483648 (0 : Int)).length ≤ wordHalf 32 - 1 := h.1
  rw [List.length_replicate] at h1
  exact absurd h1 (by decide)

theorem test_wf_refuses_two_opcodes_with_one_value :
    ¬({ resetParams with opcodes := { defaultOpcodes with halt := 1 } } : Params).InRange := by decide

theorem test_wf_refuses_an_opcode_that_is_no_word :
    ¬({ resetParams with opcodes := { defaultOpcodes with halt := 2147483648 } } : Params).InRange := by decide

theorem test_wf_refuses_an_entry_that_is_no_word :
    ¬({ resetParams with entryPc := -2147483649 } : Params).InRange := by decide

theorem test_wf_refuses_a_code_word_that_is_no_word :
    ¬({ resetParams with code := [1, 2147483648] } : Params).InRange := by decide

/-- R13 at another width: with W = 6 at most 31 code words and 32 slots. -/
theorem test_wf_follows_the_width :
    let p := { resetParams with wordBits := 6, stackCapacity := 32 }
    ({ p with code := List.replicate 31 19 } : Params).InRange ∧
    ¬({ p with code := List.replicate 32 19 } : Params).InRange ∧
    ¬({ p with stackCapacity := 33 } : Params).InRange ∧ ¬({ p with dataSize := 33 } : Params).InRange ∧
    ¬({ p with code := [32] } : Params).InRange := by
  (repeat' apply And.intro) <;> decide

/-- R68: every word is a legal immediate. -/
theorem test_wf_takes_every_immediate_word :
    (Instr.const 2147483647).wf 32 = true ∧ (Instr.call (-2147483648) (-1)).wf 32 = true ∧
    (Instr.load (-128)).wf 8 = true := by decide

theorem test_wf_refuses_an_immediate_that_is_no_word :
    (Instr.const 2147483648).wf 32 = false ∧ (Instr.jmp (-2147483649)).wf 32 = false ∧
    (Instr.jmpt 128).wf 8 = false ∧ (Instr.jmpf 128).wf 8 = false ∧ (Instr.gstore 128).wf 8 = false ∧
    (Instr.load (-129)).wf 8 = false ∧ (Instr.ldarg 128).wf 8 = false ∧ (Instr.store 128).wf 8 = false ∧
    (Instr.call 128 0).wf 8 = false ∧ (Instr.call 0 128).wf 8 = false := by
  (repeat' apply And.intro) <;> decide

/-! ### Decoding: every opcode's words, written out from 30_encoding.md R66 and R73 -/

theorem test_decode_arith :
    decode defaultOpcodes [0x00000001, wordAt 32 0 0xFFFFFFF9] = .instr (.const (-7)) ∧
    decode defaultOpcodes [0x00000002] = .instr .add ∧ decode defaultOpcodes [0x00000003] = .instr .sub ∧
    decode defaultOpcodes [0x00000004] = .instr .mul ∧ decode defaultOpcodes [0x00000005] = .instr .lt ∧
    decode defaultOpcodes [0x00000006] = .instr .eq := by decide

theorem test_decode_branch :
    decode defaultOpcodes [0x00000007, 0x0000000A] = .instr (.jmp 10) ∧
    decode defaultOpcodes [0x00000008, 0x0000000C] = .instr (.jmpt 12) ∧
    decode defaultOpcodes [0x00000009, wordAt 32 0 0xFFFFFFFB] = .instr (.jmpf (-5)) := by decide

theorem test_decode_load_store :
    decode defaultOpcodes [0x0000000A] = .instr .gload ∧
    decode defaultOpcodes [0x0000000B, 0x00000002] = .instr (.gstore 2) ∧
    decode defaultOpcodes [0x0000000C, 0x00000001] = .instr (.load 1) ∧
    decode defaultOpcodes [0x0000000D, 0x00000000] = .instr (.ldarg 0) ∧
    decode defaultOpcodes [0x0000000E, wordAt 32 0 0xFFFFFFFC] = .instr (.store (-4)) := by decide

theorem test_decode_call_return :
    decode defaultOpcodes [0x0000000F, 0x0000000A, 0x00000001] = .instr (.call 10 1) ∧
    decode defaultOpcodes [0x00000010] = .instr .ret := by decide

theorem test_decode_stack_io_halt :
    decode defaultOpcodes [0x00000011] = .instr .print ∧ decode defaultOpcodes [0x00000012] = .instr .pop ∧
    decode defaultOpcodes [0x00000013] = .instr .halt := by decide

/-- R71: 0, 20 and -1 are illegal. R44: immediates cut off. -/
theorem test_decode_refuses :
    decode defaultOpcodes [0, 19] = .unknownOpcode ∧ decode defaultOpcodes [20] = .unknownOpcode ∧
    decode defaultOpcodes [-1] = .unknownOpcode ∧ decode defaultOpcodes [] = .noOpcode ∧
    decode defaultOpcodes [1] = .cutOff .const ∧ decode defaultOpcodes [15, 10] = .cutOff .call := by decide

theorem test_encode_is_the_listing : encode defaultOpcodes (.call 10 1) = [15, 10, 1] := by decide

/-- Bits 31..0 are the opcode word and bits 63..32 imm1, whatever lies above nbits. -/
theorem test_decodeTableWord :
    decodeTableWord 32 1 = some (.const 0) ∧ decodeTableWord 32 15 = some (.call 0 0) ∧
    decodeTableWord 96 (15 + 10 * 2 ^ 32 + 1 * 2 ^ 64) = some (.call 10 1) ∧ decodeTableWord 32 0 = none := by decide

/-! ### Reset, placing an instruction, memory -/

theorem test_reset_fields :
    State.reset.sp = -1 ∧ State.reset.fp = 0 ∧ State.reset.data.read 7 = 0 ∧ State.reset.out = [] ∧
      State.reset.status = .running := by decide

theorem test_reset_memory_wf : State.reset.stack.wf ∧ State.reset.data.wf := ⟨Memory.empty_wf, Memory.empty_wf⟩

/-- F1: with no code word at ENTRY_PC the first step faults. -/
theorem test_reset_without_a_program_faults :
    (after State.reset).status = .faulted .invalidCodeAddress 0 := by decide

theorem test_withFetchWord_runs_the_instruction :
    step (State.reset.withFetchWord 32 15) = exec (.call 0 0) (State.reset.withFetchWord 32 15) := by rfl

theorem test_memory_write_zero_removes_the_cell :
    ((memoryOf [5, 6]).write 1 0).cells = [(0, 5)] ∧ ((memoryOf [5, 6]).write 1 0).read 1 = 0 := by decide

/-! ### One step of each instruction (the vector's name in each docstring) -/

/-- A2. -/
theorem test_const : view (after (vector [1, -2147483648] [])) = (6, 0, 0, [-2147483648]) := by decide

/-- A4. -/
theorem test_const_cut_off : (after (lastInCode [1] [])).status = .faulted .invalidCodeAddress 4 := by decide

/-- A6. -/
theorem test_add_wraps : view (after (vector [2] [2147483647, 1])) = (5, 0, 0, [-2147483648]) := by decide

/-- R77, by the formula of R14 at W = 8: 127 + 1 wraps to -128. -/
theorem test_add_wraps_at_another_width :
    let s := vector [2] [127, 1]
    view (after { s with params := { s.params with wordBits := 8 } }) = (5, 0, 0, [-128]) := by decide

/-- A9. -/
theorem test_add_stops_at_the_floor :
    (after (vector [2] [1, 2, 3, 4, 5] 3)).status = .faulted .stackUnderflow 4 := by decide

/-- A10. -/
theorem test_sub : view (after (vector [3] [3, 5])) = (5, 0, 0, [-2]) := by decide

/-- A13. -/
theorem test_sub_wraps : view (after (vector [3] [0, -2147483648])) = (5, 0, 0, [-2147483648]) := by decide

/-- A17. -/
theorem test_mul_keeps_the_low_bits : view (after (vector [4] [46341, 46341])) = (5, 0, 0, [-2147479015]) := by
  decide

/-- A20. -/
theorem test_mul_signed : view (after (vector [4] [-3, 4])) = (5, 0, 0, [-12]) := by decide

/-- A21 and A22. -/
theorem test_lt_is_first_pushed_greater :
    view (after (vector [5] [5, 3])) = (5, 0, 0, [1]) ∧ view (after (vector [5] [3, 5])) = (5, 0, 0, [0]) := by decide

/-- A26. -/
theorem test_lt_signed : view (after (vector [5] [2147483647, -2147483648])) = (5, 0, 0, [1]) := by decide

/-- A27 and A28. -/
theorem test_eq :
    view (after (vector [6] [4, 4])) = (5, 0, 0, [1]) ∧ view (after (vector [6] [4, 5])) = (5, 0, 0, [0]) := by decide

/-- B1. -/
theorem test_jmp : view (after (vector [7, 10] [])) = (10, -1, 0, []) := by decide

/-- B2: a target of N is refused. -/
theorem test_jmp_to_n : (after (vector [7, 20] [])).status = .faulted .invalidCodeAddress 4 := by decide

/-- B5 and B7. -/
theorem test_jmpt :
    view (after (vector [8, 12] [-3])) = (12, -1, 0, []) ∧ view (after (vector [8, 99] [0])) = (6, -1, 0, []) := by
  decide

/-- B8. -/
theorem test_jmpt_bad_target_pops_nothing :
    (after (vector [8, 99] [1])).status = .faulted .invalidCodeAddress 4 ∧ (after (vector [8, 99] [1])).sp = 0 := by
  decide

/-- B10 and B12. -/
theorem test_jmpf :
    view (after (vector [9, 12] [0])) = (12, -1, 0, []) ∧ view (after (vector [9, -5] [7])) = (6, -1, 0, []) := by
  decide

/-- L1. -/
theorem test_gload :
    view (after { vector [10] [3] with data := memoryOf [0, 0, 0, 9] }) = (5, 0, 0, [9]) := by decide

/-- L2. -/
theorem test_gload_at_d : (after (vector [10] [8])).status = .faulted .invalidMemoryAddress 4 := by decide

/-- L6. -/
theorem test_gstore :
    view (after (vector [11, 2] [5])) = (6, -1, 0, []) ∧ (after (vector [11, 2] [5])).data.read 2 = 5 := by decide

/-- R119 (SU, IC): the pop is checked before the cut-off immediate. -/
theorem test_gstore_cut_off_pops_first :
    (after (lastInCode [11] [])).status = .faulted .stackUnderflow 4 ∧
    (after (lastInCode [11] [5])).status = .faulted .invalidCodeAddress 4 := by decide

/-- L9 and L11. -/
theorem test_load :
    view (after (vector [12, 1] [7, 1, 0, 5, 9] 3)) = (6, 5, 3, [7, 1, 0, 5, 9, 9]) ∧
    view (after (vector [12, -3] [7, 1, 0, 5, 9] 3)) = (6, 5, 3, [7, 1, 0, 5, 9, 7]) := by decide

/-- L12. -/
theorem test_load_above_sp :
    (after (vector [12, 2] [7, 1, 0, 5, 9] 3)).status = .faulted .invalidMemoryAddress 4 := by decide

/-- L17 and L18. -/
theorem test_ldarg :
    view (after (vector [13, 1] [6, 7, 2, 0, 6] 4)) = (6, 5, 4, [6, 7, 2, 0, 6, 6]) ∧
    view (after (vector [13, 0] [6, 7, 2, 0, 6] 4)) = (6, 5, 4, [6, 7, 2, 0, 6, 7]) := by decide

/-- L21. -/
theorem test_ldarg_at_top_level : (after (vector [13, 0] [5])).status = .faulted .invalidMemoryAddress 4 := by decide

/-- L22. -/
theorem test_store_writes_data_not_stack :
    view (after (vector [14, 1] [7, 1, 0, 5, 9] 3)) = (6, 3, 3, [7, 1, 0, 5]) ∧
    (after (vector [14, 1] [7, 1, 0, 5, 9] 3)).data.cells = [(4, 9)] := by decide

/-- L24. -/
theorem test_store_at_d :
    (after (vector [14, 5] [7, 1, 0, 5, 9] 3)).status = .faulted .invalidMemoryAddress 4 := by decide

/-- The example of R103, at ia = 4: the saved pc is ia + 3. -/
theorem test_call : view (after (vector [15, 10, 1] [7])) = (10, 3, 3, [7, 1, 0, 7]) := by decide

/-- K9. -/
theorem test_call_stops_at_the_floor :
    (after (vector [15, 10, 2] [7, 1, 0, 5, 9] 3)).status = .faulted .stackUnderflow 4 := by decide

/-- K11. -/
theorem test_ret : view (after (vector [16] [7, 1, 0, 5, 8, 9, 42] 3)) = (5, 0, 0, [42]) := by decide

/-- K15 and K16. -/
theorem test_ret_nested_and_bad_argc :
    view (after (vector [16] [1, 2, 2, 0, 5, 1, 3, 8, 33] 7)) = (8, 4, 3, [1, 2, 2, 0, 33]) ∧
    (after (vector [16] [0, 5, 0, 5, 42] 3)).status = .faulted .stackUnderflow 4 := by decide

/-- O1. -/
theorem test_print : (after (vector [17] [8])).out = [8] ∧ view (after (vector [17] [8])) = (5, -1, 0, []) := by decide

/-- O2 and W3: the line the host sees. -/
theorem test_print_line : (after (vector [17] [-2147483648])).outputText = "-2147483648\n" := by decide

/-- O4. -/
theorem test_pop : view (after (vector [18] [4, 9])) = (5, 0, 0, [4]) := by decide

/-- O6. -/
theorem test_pop_stops_at_the_floor :
    (after (vector [18] [7, 1, 0, 5] 3)).status = .faulted .stackUnderflow 4 := by decide

/-- O7, and R116: nothing executes after it. -/
theorem test_halt :
    (after (vector [19] [1, 2])).status = .halted ∧ view (after (vector [19] [1, 2])) = (5, 1, 0, [1, 2]) ∧
      step (after (vector [19] [1, 2])) = .fault .notRunning := ⟨by decide, by decide, rfl⟩

/-- R138. -/
theorem test_init_fails :
    init defaultOpcodes 100 [] 0 8 = .error .initError ∧ init defaultOpcodes 100 [19] 0 (-1) = .error .initError :=
  ⟨rfl, rfl⟩

/-- R74, R75: a label is the code index of the next word. -/
theorem test_assembler :
    asmProgram defaultOpcodes
      [.instr .const [.number (-7)], .label "loop", .instr .call [.label "loop", .number 1]] =
        .ok [1, -7, 15, 2, 1] ∧
    asmProgram defaultOpcodes [.instr .const [.number 2147483648]] = .error (.operandTooLarge 2147483648) ∧
    asmProgram defaultOpcodes [.instr .const [.number 128]] 8 = .error (.operandTooLarge 128) ∧
    asmProgram defaultOpcodes [.instr .call [.number 0]] = .error (.operandCount .call) := by decide

/-! ### Witnesses: states that meet the hypotheses of each obligation, clause by clause, at boundary values -/

/-- The step of `s` has a next state. -/
def steps (s : State) : Bool :=
  match step s with
  | .next _ => true
  | .fault _ => false
  | .refused _ => false

theorem step_eq_after {s : State} (h : steps s = true) : step s = .next (after s) := by
  unfold steps at h
  unfold after
  cases hs : step s <;> simp [hs] at h ⊢

/-- The invariant of a RUNNING state at top level. -/
theorem inv_top {s : State} (hs : s.Sound) (hw : s.Words) (hf : s.fp = 0)
    (hb : s.stack.below s.params.stackCapacity ∧ s.data.below s.params.dataSize)
    (hp : 0 ≤ s.pc ∧ s.pc ≤ s.codeSize) (hr : s.status = .running) : s.Inv :=
  ⟨hs, hw, hf ▸ .top, hb.1, hb.2, .inr hp, fun k f h => by simp [hr] at h⟩

/-- The invariant of a RUNNING state in a callee that the top level called. -/
theorem inv_callee {s : State} (hs : s.Sound) (hw : s.Words)
    (hf : 2 ≤ s.fp ∧ s.stack.read (s.fp - 1).toNat = 0 ∧
      0 ≤ (s.stack.read (s.fp - 2).toNat) ∧
      floorOf (s.stack.read (s.fp - 1).toNat) - 1 ≤
        s.fp - 3 - (s.stack.read (s.fp - 2).toNat) ∧
      0 ≤ (s.stack.read s.fp.toNat) ∧ (s.stack.read s.fp.toNat) ≤ s.codeSize)
    (hb : s.stack.below s.params.stackCapacity ∧ s.data.below s.params.dataSize)
    (hp : 0 ≤ s.pc ∧ s.pc ≤ s.codeSize) (hr : s.status = .running) : s.Inv :=
  ⟨hs, hw, .callee s.fp hf.1 hf.2.2.1 hf.2.2.2.1 hf.2.2.2.2 (hf.2.1 ▸ .top), hb.1, hb.2, .inr hp,
    fun k f h => by simp [hr] at h⟩

theorem witness_DecodeOfEncodeIsTheInstruction :
    defaultOpcodes.Injective ∧ (∀ m, IsWord 32 (defaultOpcodes.value m)) ∧
      (Instr.call 2147483647 (-2147483648)).wf 32 = true ∧
      (2147483647 : Int) ∈ encode defaultOpcodes (.call 2147483647 (-2147483648)) :=
  ⟨by decide, fun m => by cases m <;> decide, by decide, by decide⟩

theorem witness_DecodedWordsBeginWithTheEncoding :
    decode defaultOpcodes [15, 10, 1, 9] = .instr (.call 10 1) ∧
      ∀ w ∈ ([15, 10, 1, 9] : List Int), IsWord 32 w := by decide

theorem witness_IllegalOpcodeRaisesUnknownOpcode (s : State) (hs : s = vector [20] []) :
    s.status = .running ∧ s.inCode s.pc ∧
      ∀ m, s.params.code[s.pc.toNat]? ≠ some (s.params.opcodes.value m) := by
  subst hs
  refine ⟨by decide, by decide, fun m => ?_⟩
  cases m <;> decide

theorem witness_DecodeAtPcAgreesWithFetchCode : (lastInCode [15, 10, 1] [7]).params.opcodes.Injective ∧
    fetchDecode (lastInCode [15, 10, 1] [7]) = .instr (.call 10 1) := by decide

theorem witness_StepExecutesTheInstructionAtPc :
    (lastInCode [15, 10, 1] [7]).status = .running ∧
    fetchDecode (lastInCode [15, 10, 1] [7]) = .instr (.call 10 1) ∧
    (lastInCode [15, 10, 1] [7]).params.opcodes.Injective ∧ (lastInCode [15, 10, 1] [7]).Holds (.call 10 1) :=
  ⟨by decide, by decide, by decide, by decide, by decide, [], by decide⟩

theorem witness_FetchOutsideCodeRaisesInvalidCodeAddress :
    (∃ s : State, s.status = .running ∧ s.pc < 0) ∧
    (∃ s : State, s.status = .running ∧ (s.codeSize : Int) ≤ s.pc) :=
  ⟨⟨{ vector [] [] with pc := -1 }, by decide⟩, ⟨{ vector [] [] with pc := 20 }, by decide⟩⟩

theorem witness_CutOffInstructionFaultsInItsOwnOrder :
    ((lastInCode [11] []).Sound ∧ (lastInCode [11] []).CutsOff .gstore ∧ (lastInCode [11] []).poppable < 1) ∧
    ((lastInCode [14] [5]).Sound ∧ (lastInCode [14] [5]).CutsOff .store ∧ 1 ≤ (lastInCode [14] [5]).poppable) ∧
    (lastInCode [15, 10] []).Sound ∧ (lastInCode [15, 10] []).CutsOff .call := by
  (repeat' apply And.intro) <;> decide

theorem witness_ConstPushesItsImmediate :
    ((lastInCode [1] []).Sound ∧ (lastInCode [1] []).CutsOff .const) ∧
    ((nearlyFull 0 [1, 5]).Sound ∧
      (nearlyFull 0 [1, 5]).sp = (nearlyFull 0 [1, 5]).params.stackCapacity - 1) ∧
    ((nearlyFull 1 [1, 5]).Sound ∧
      (nearlyFull 1 [1, 5]).sp < (nearlyFull 1 [1, 5]).params.stackCapacity - 1) := by
  (repeat' apply And.intro) <;> decide

/-- The smallest width, a width whose formula wraps at 128, and the default. -/
theorem witness_WrapMeetsItsFormula :
    1 ≤ (1 : Nat) ∧ 1 ≤ (8 : Nat) ∧ 1 ≤ Config.wordBits ∧
      IsWord 8 (-128) ∧ ((-128 : Int) - 128) % 2 ^ 8 = 0 := by decide

/-- The hypotheses of the five statements of ADD, SUB, MUL, LT and EQ: one value at the floor, and two. -/
abbrev BinaryWitness (op : Int) : Prop :=
  ((vector [op] [5]).Sound ∧ (vector [op] [5]).poppable < 2) ∧
  ((vector [op] [1, 2, 3, 4, 5] 3).Sound ∧ (vector [op] [1, 2, 3, 4, 5] 3).poppable < 2) ∧
  ((vector [op] [5, 6]).Sound ∧ 2 ≤ (vector [op] [5, 6]).poppable)

theorem witness_AddPushesTheWrappedSum : BinaryWitness 2 := by (repeat' apply And.intro) <;> decide
theorem witness_SubPushesTheWrappedDifference : BinaryWitness 3 := by (repeat' apply And.intro) <;> decide
theorem witness_MulPushesTheWrappedProduct : BinaryWitness 4 := by (repeat' apply And.intro) <;> decide
theorem witness_LtPushesWhetherTheFirstIsGreater : BinaryWitness 5 := by (repeat' apply And.intro) <;> decide
theorem witness_EqPushesWhetherTheTwoAreEqual : BinaryWitness 6 := by (repeat' apply And.intro) <;> decide

theorem witness_AddMulEqAreCommutative :
    (vector [2] [2, 3]).Sound ∧ (vector [2] [3, 2]).Sound ∧ 2 ≤ (vector [2] [2, 3]).poppable ∧
      (vector [2] [3, 2]).params.wordBits = (vector [2] [2, 3]).params.wordBits ∧
      2 ≤ (vector [2] [3, 2]).poppable ∧ (vector [2] [3, 2]).top 0 = (vector [2] [2, 3]).top 1 ∧
      (vector [2] [3, 2]).top 1 = (vector [2] [2, 3]).top 0 := by decide

theorem witness_JmpGoesToItsTarget :
    ((lastInCode [7] []).Sound ∧ (lastInCode [7] []).CutsOff .jmp) ∧
    (¬(vector [7, 20] []).inCode 20 ∧ ¬(vector [7, -1] []).inCode (-1)) ∧
    (vector [7, 0] []).inCode 0 ∧ (vector [7, 19] []).inCode 19 := by decide

/-- The hypotheses of the statements of JMPT and JMPF: `taken` is a top word that jumps, `notTaken` one that does not. -/
abbrev ConditionalWitness (op : Int) (m : Mnemonic) (taken notTaken : Int) : Prop :=
  ((lastInCode [op] []).Sound ∧ (lastInCode [op] []).CutsOff m) ∧
  ((vector [op, 12] []).Sound ∧ (vector [op, 12] []).poppable < 1) ∧
  ((vector [op, 20] [taken]).Sound ∧ 1 ≤ (vector [op, 20] [taken]).poppable ∧
    (vector [op, 20] [taken]).top 0 = taken ∧ ¬(vector [op, 20] [taken]).inCode 20) ∧
  ((vector [op, 19] [taken]).Sound ∧ 1 ≤ (vector [op, 19] [taken]).poppable ∧
    (vector [op, 19] [taken]).top 0 = taken ∧ (vector [op, 19] [taken]).inCode 19) ∧
  ((vector [op, 20] [notTaken]).Sound ∧ 1 ≤ (vector [op, 20] [notTaken]).poppable ∧
    (vector [op, 20] [notTaken]).top 0 = notTaken)

theorem witness_JmptJumpsOnANonzeroWord : ConditionalWitness 8 .jmpt (-1) 0 ∧ (-1 : Int) ≠ 0 := by
  (repeat' apply And.intro) <;> decide
theorem witness_JmpfJumpsOnZero : ConditionalWitness 9 .jmpf 0 (-1) ∧ (-1 : Int) ≠ 0 := by
  (repeat' apply And.intro) <;> decide

theorem witness_JmpToItselfNeverEnds :
    (vector [7, 4] []).params.opcodes.Injective ∧ (vector [7, 4] []).Holds (.jmp (vector [7, 4] []).pc) :=
  ⟨by decide, by decide, by decide, List.replicate 14 19, by decide⟩

theorem witness_GloadReadsDataMemory :
    ((vector [10] []).Sound ∧ (vector [10] []).poppable < 1) ∧
    ((vector [10] [8]).Sound ∧ 1 ≤ (vector [10] [8]).poppable ∧
      ¬(vector [10] [8]).hasCell ((vector [10] [8]).top 0)) ∧
    ((vector [10] [-1]).Sound ∧ 1 ≤ (vector [10] [-1]).poppable ∧
      ¬(vector [10] [-1]).hasCell ((vector [10] [-1]).top 0)) ∧
    ((vector [10] [7]).Sound ∧ 1 ≤ (vector [10] [7]).poppable ∧
      (vector [10] [7]).hasCell ((vector [10] [7]).top 0)) := by
  (repeat' apply And.intro) <;> decide

/-- The state after the GSTORE of L6, with the store's address pushed and GLOAD to come. -/
def beforeGload : State := { after (vector [11, 2] [5]) with sp := 0, stack := memoryOf [2] }

theorem witness_GstoreWritesDataMemory :
    ((lastInCode [11] [5]).Sound ∧ (lastInCode [11] [5]).CutsOff .gstore ∧ 1 ≤ (lastInCode [11] [5]).poppable) ∧
    ((lastInCode [11] []).Sound ∧ (lastInCode [11] []).CutsOff .gstore ∧ (lastInCode [11] []).poppable < 1) ∧
    ((vector [11, 2] []).Sound ∧ (vector [11, 2] []).poppable < 1) ∧
    ((vector [11, 8] [5]).Sound ∧ 1 ≤ (vector [11, 8] [5]).poppable ∧
      ¬(vector [11, 8] [5]).hasCell (absolute 8) ∧ ¬(vector [11, 8] [5]).hasCell (absolute (-1))) ∧
    ((vector [11, 7] [5]).Sound ∧ 1 ≤ (vector [11, 7] [5]).poppable ∧
      (vector [11, 7] [5]).hasCell (absolute 7) ∧ (vector [11, 7] [5]).hasCell (absolute 0)) := by
  (repeat' apply And.intro) <;> decide

theorem witness_GstoreWritesDataMemory_then_gload :
    (vector [11, 2] [5]).Sound ∧ (vector [11, 2] [5]).status = .running ∧
      exec (.gstore 2) (vector [11, 2] [5]) = .next (after (vector [11, 2] [5])) ∧
      (after (vector [11, 2] [5])).status = .running ∧ beforeGload.Sound ∧
      beforeGload.params = (after (vector [11, 2] [5])).params ∧
      beforeGload.data = (after (vector [11, 2] [5])).data ∧ 1 ≤ beforeGload.poppable ∧ beforeGload.top 0 = 2 :=
  ⟨by decide, by decide, step_eq_after (s := vector [11, 2] [5]) (by decide), by decide, by decide, rfl, rfl,
    by decide, by decide⟩

theorem witness_LoadPushesAFrameRelativeSlot :
    ((lastInCode [12] []).Sound ∧ (lastInCode [12] []).CutsOff .load) ∧
    ((vector [12, 2] [7, 1, 0, 5, 9] 3).Sound ∧
      (vector [12, 2] [7, 1, 0, 5, 9] 3).sp < (vector [12, 2] [7, 1, 0, 5, 9] 3).fp + 2 ∧
      (vector [12, 2] [7, 1, 0, 5, 9] 3).fp + (-4) < 0) ∧
    ((nearlyFull 0 [12, 0]).Sound ∧ 0 ≤ (nearlyFull 0 [12, 0]).fp + 0 ∧
      (nearlyFull 0 [12, 0]).fp + 99 ≤ (nearlyFull 0 [12, 0]).sp ∧
      (nearlyFull 0 [12, 0]).sp = (nearlyFull 0 [12, 0]).params.stackCapacity - 1) ∧
    ((nearlyFull 1 [12, 0]).Sound ∧ 0 ≤ (nearlyFull 1 [12, 0]).fp + 0 ∧
      (nearlyFull 1 [12, 0]).fp + 98 ≤ (nearlyFull 1 [12, 0]).sp ∧
      (nearlyFull 1 [12, 0]).sp < (nearlyFull 1 [12, 0]).params.stackCapacity - 1) := by
  (repeat' apply And.intro) <;> decide

theorem witness_LdargPushesAnArgumentSlot :
    ((lastInCode [13] []).Sound ∧ (lastInCode [13] []).CutsOff .ldarg) ∧
    ((vector [13, 1] [7, 1, 0, 5] 3).Sound ∧
      (vector [13, 1] [7, 1, 0, 5] 3).fp - 3 - 1 < 0 ∧
      (vector [13, 1] [7, 1, 0, 5] 3).sp < (vector [13, 1] [7, 1, 0, 5] 3).fp - 3 - (-4)) ∧
    ((nearlyFull 0 [13, -3]).Sound ∧ 0 ≤ (nearlyFull 0 [13, -3]).fp - 3 - (-3) ∧
      (nearlyFull 0 [13, -3]).fp - 3 - (-102) ≤ (nearlyFull 0 [13, -3]).sp ∧
      (nearlyFull 0 [13, -3]).sp = (nearlyFull 0 [13, -3]).params.stackCapacity - 1) ∧
    ((vector [13, 0] [7, 1, 0, 5] 3).Sound ∧ 0 ≤ (vector [13, 0] [7, 1, 0, 5] 3).fp - 3 - 0 ∧
      (vector [13, 0] [7, 1, 0, 5] 3).fp - 3 - (-3) ≤ (vector [13, 0] [7, 1, 0, 5] 3).sp ∧
      (vector [13, 0] [7, 1, 0, 5] 3).sp < (vector [13, 0] [7, 1, 0, 5] 3).params.stackCapacity - 1) := by
  (repeat' apply And.intro) <;> decide

theorem witness_StoreWritesDataMemoryNotTheStack :
    ((lastInCode [14] [5]).Sound ∧ (lastInCode [14] [5]).CutsOff .store ∧ 1 ≤ (lastInCode [14] [5]).poppable) ∧
    ((lastInCode [14] []).Sound ∧ (lastInCode [14] []).CutsOff .store ∧ (lastInCode [14] []).poppable < 1) ∧
    ((vector [14, 1] [7, 1, 0, 5] 3).Sound ∧ (vector [14, 1] [7, 1, 0, 5] 3).poppable < 1) ∧
    ((vector [14, 5] [7, 1, 0, 5, 9] 3).Sound ∧ 1 ≤ (vector [14, 5] [7, 1, 0, 5, 9] 3).poppable ∧
      ¬(vector [14, 5] [7, 1, 0, 5, 9] 3).hasCell (frameUp (vector [14, 5] [7, 1, 0, 5, 9] 3) 5) ∧
      ¬(vector [14, 5] [7, 1, 0, 5, 9] 3).hasCell (frameUp (vector [14, 5] [7, 1, 0, 5, 9] 3) (-4))) ∧
    ((vector [14, 4] [7, 1, 0, 5, 9] 3).Sound ∧ 1 ≤ (vector [14, 4] [7, 1, 0, 5, 9] 3).poppable ∧
      (vector [14, 4] [7, 1, 0, 5, 9] 3).hasCell (frameUp (vector [14, 4] [7, 1, 0, 5, 9] 3) 4) ∧
      (vector [14, 4] [7, 1, 0, 5, 9] 3).hasCell (frameUp (vector [14, 4] [7, 1, 0, 5, 9] 3) (-3))) ∧
    (vector [14, 0] [9]).fp = 0 := by
  (repeat' apply And.intro) <;> decide

theorem witness_CallPushesAFrameAndEntersTheCallee :
    ((lastInCode [15] []).Sound ∧ (lastInCode [15] []).CutsOff .call) ∧
    ((lastInCode [15, 10] []).Sound ∧ (lastInCode [15, 10] []).CutsOff .call) ∧
    ((vector [15, 10, 2] [7]).Sound ∧ (vector [15, 10, 2] [7]).poppable < 2 ∧
      (-1 : Int) < 0) ∧
    ((nearlyFull 2 [15, 10, 1]).Sound ∧ 0 ≤ (0 : Int) ∧
      (98 : Int) ≤ (nearlyFull 2 [15, 10, 1]).poppable ∧
      (nearlyFull 2 [15, 10, 1]).params.stackCapacity - 1 < (nearlyFull 2 [15, 10, 1]).sp + 3) ∧
    ((nearlyFull 3 [15, 20, 1]).Sound ∧ 0 ≤ (0 : Int) ∧
      (97 : Int) ≤ (nearlyFull 3 [15, 20, 1]).poppable ∧
      (nearlyFull 3 [15, 20, 1]).sp + 3 ≤ (nearlyFull 3 [15, 20, 1]).params.stackCapacity - 1 ∧
      ¬(nearlyFull 3 [15, 20, 1]).inCode 20 ∧ (nearlyFull 3 [15, 20, 1]).inCode 19) := by
  (repeat' apply And.intro) <;> decide

theorem witness_CalleeReadsItsArguments :
    (vector [15, 10, 2] [6, 7]).Sound ∧ (vector [15, 10, 2] [6, 7]).status = .running ∧
      exec (.call 10 2) (vector [15, 10, 2] [6, 7]) = .next (after (vector [15, 10, 2] [6, 7])) ∧
      (after (vector [15, 10, 2] [6, 7])).status = .running ∧ ((1 : Nat) : Int) < (2 : Int) ∧
      (after (vector [15, 10, 2] [6, 7])).sp < (after (vector [15, 10, 2] [6, 7])).params.stackCapacity - 1 :=
  ⟨by decide, by decide, step_eq_after (s := vector [15, 10, 2] [6, 7]) (by decide), by decide, by decide, by decide⟩

theorem witness_RetUnwindsOneFrame_faults :
    ((vector [16] [7, 1, 0, 5] 3).Sound ∧ (vector [16] [7, 1, 0, 5] 3).poppable < 1) ∧
    ((vector [16] [42]).Sound ∧ (vector [16] [42]).fp = 0) ∧
    ((vector [16] [0, 2, 0, 5, 42] 3).Sound ∧ 1 ≤ (vector [16] [0, 2, 0, 5, 42] 3).poppable ∧
      (vector [16] [0, 2, 0, 5, 42] 3).fp - 3 - ((vector [16] [0, 2, 0, 5, 42] 3).stack.read 1) <
        floorOf ((vector [16] [0, 2, 0, 5, 42] 3).stack.read 2) - 1) ∧
    ((vector [16] [0, -1, 0, 5, 42] 3).Sound ∧ 1 ≤ (vector [16] [0, -1, 0, 5, 42] 3).poppable ∧
      ((vector [16] [0, -1, 0, 5, 42] 3).stack.read 1) < 0) ∧
    ((vector [16] [0, 0, 0, 20, 42] 3).Sound ∧ 1 ≤ (vector [16] [0, 0, 0, 20, 42] 3).poppable ∧
      0 ≤ ((vector [16] [0, 0, 0, 20, 42] 3).stack.read 1) ∧
      floorOf ((vector [16] [0, 0, 0, 20, 42] 3).stack.read 2) - 1 ≤
        (vector [16] [0, 0, 0, 20, 42] 3).fp - 3 - ((vector [16] [0, 0, 0, 20, 42] 3).stack.read 1) ∧
      ¬(vector [16] [0, 0, 0, 20, 42] 3).inCode ((vector [16] [0, 0, 0, 20, 42] 3).stack.read 3)) := by
  (repeat' apply And.intro) <;> decide

theorem witness_RetUnwindsOneFrame :
    (vector [16] [7, 1, 0, 19, 42] 3).Inv ∧ 1 ≤ (vector [16] [7, 1, 0, 19, 42] 3).poppable ∧
      (vector [16] [7, 1, 0, 19, 42] 3).fp ≠ 0 ∧
      (vector [16] [7, 1, 0, 19, 42] 3).inCode ((vector [16] [7, 1, 0, 19, 42] 3).stack.read 3) :=
  ⟨inv_callee (by decide) (by decide) (by decide) (by decide) (by decide) (by decide), by decide, by decide, by decide⟩

/-- CALL 10, 1 at 4, with LDARG 0; RET at 10. -/
def caller : State :=
  let s := vector [15, 10, 1] [7]
  { s with params := { s.params with code := placeWords s.params.code 10 [13, 0, 16] } }

theorem witness_CallAndMatchingRetBalance :
    caller.Inv ∧ caller.status = .running ∧ fetchDecode caller = .instr (.call 10 1) ∧
      step caller = .next (after caller) ∧ (after caller).status = .running ∧
      StepsWithin (after caller).fp (after caller) (after (after caller)) ∧
      (after (after caller)).fp = (after caller).fp ∧ fetchDecode (after (after caller)) = .instr .ret ∧
      step (after (after caller)) = .next (after (after (after caller))) ∧
      (after (after (after caller))).status = .running :=
  ⟨inv_top (by decide) (by decide) (by decide) (by decide) (by decide) (by decide), by decide, by decide,
    step_eq_after (by decide), by decide,
    .step (.refl _) (step_eq_after (by decide)) (by decide), by decide, by decide, step_eq_after (by decide), by decide⟩

theorem witness_PrintAppendsTheTopToOut :
    ((vector [17] []).Sound ∧ (vector [17] []).poppable < 1) ∧
    ((vector [17] [8]).Sound ∧ 1 ≤ (vector [17] [8]).poppable) := by decide

theorem witness_PopDiscardsTheTop :
    ((vector [18] [7, 1, 0, 5] 3).Sound ∧ (vector [18] [7, 1, 0, 5] 3).poppable < 1) ∧
    ((vector [18] [4]).Sound ∧ 1 ≤ (vector [18] [4]).poppable) := by decide

theorem witness_FaultTableDecidesEveryInstruction :
    (vector [2] [5]).Inv ∧ (vector [2] [5]).status = .running ∧
      firstFault .add (vector [2] [5]) = some .stackUnderflow ∧ firstFault .pop (vector [2] [5]) = none :=
  ⟨inv_top (by decide) (by decide) (by decide) (by decide) (by decide) (by decide), by decide, by decide, by decide⟩

theorem witness_FaultsArePreciseAndRecordTheOpcodeAddress :
    (vector [2] [5]).status = .running ∧ step (vector [2] [5]) = .next (after (vector [2] [5])) ∧
      (after (vector [2] [5])).status = .faulted .stackUnderflow 4 :=
  ⟨by decide, step_eq_after (by decide), by decide⟩

theorem witness_FinishedEngineExecutesNothing :
    (after (vector [19] [])).status = .halted ∧
      (after (vector [2] [5])).status = .faulted .stackUnderflow 4 := by decide

theorem witness_InitBuildsTheResetState :
    (([] : List Int) = [] ∧ (-1 : Int) < 0) ∧ (([19] : List Int) ≠ [] ∧ (0 : Int) ≤ 0) ∧
      ∃ s, init defaultOpcodes 100 [19] 1 0 = .ok s ∧ ¬s.inCode 1 :=
  ⟨by decide, by decide, _, rfl, by decide⟩

theorem witness_ConstructionMeetsTheInvariant :
    ∃ s, init defaultOpcodes 1 [19] (-1) 0 = .ok s ∧ s.params.InRange := ⟨_, rfl, by decide⟩

theorem witness_EveryStepKeepsTheInvariant :
    caller.Inv ∧ step caller = .next (after caller) :=
  ⟨witness_CallAndMatchingRetBalance.1, step_eq_after (by decide)⟩

theorem witness_RunningEngineAlwaysSteps : caller.Inv ∧ caller.status = .running :=
  ⟨witness_CallAndMatchingRetBalance.1, by decide⟩

/-- The last word of CODE, so that pc becomes N. -/
theorem witness_PcStaysWithinCode :
    ((lastInCode [18] [4]).status = .running ∧
      step (lastInCode [18] [4]) = .next (after (lastInCode [18] [4])) ∧
      ∀ k fpc, (after (lastInCode [18] [4])).status ≠ .faulted k fpc) ∧
    (resetParams.code.length : Int) ≤ resetParams.entryPc ∧
    ({ resetParams with entryPc := -1 } : Params).entryPc < 0 := by
  have h : (after (lastInCode [18] [4])).status = .running := by decide
  exact ⟨⟨by decide, step_eq_after (by decide), fun k f hk => by rw [h] at hk; cases hk⟩, by decide,
    by decide⟩

/-- Clause by clause: a RUNNING state that steps; a run that its budget of 1 cuts short; a run that HALT ends, at the
smallest budget. -/
theorem witness_RunIsRepeatedStep :
    (caller.status = .running ∧ step caller = .next (after caller)) ∧
    (caller.Inv ∧ (run 1 caller).status = .running) ∧
    (Host.Core.run Sys2Proof.core 1 (vector [19] []) = .next (after (vector [19] [])) ∧
      (after (vector [19] [])).status ≠ .running ∧ 1 ≤ (1 : Nat)) :=
  ⟨⟨by decide, step_eq_after (by decide)⟩, ⟨witness_CallAndMatchingRetBalance.1, by decide⟩, rfl, by decide,
    by decide⟩

theorem witness_NoStepWritesCode : step caller = .next (after caller) := step_eq_after (by decide)

theorem witness_OnlyPrintWritesOut :
    step (vector [17] [8]) = .next (after (vector [17] [8])) ∧ (after (vector [17] [8])).out ≠ (vector [17] [8]).out :=
  ⟨step_eq_after (by decide), by decide⟩

theorem witness_OnlyGstoreAndStoreWriteData :
    step (vector [11, 2] [5]) = .next (after (vector [11, 2] [5])) ∧
      (after (vector [11, 2] [5])).data ≠ (vector [11, 2] [5]).data :=
  ⟨step_eq_after (by decide), by decide⟩

theorem witness_OnlyCallAndRetWriteFp : step caller = .next (after caller) ∧ (after caller).fp ≠ caller.fp :=
  ⟨step_eq_after (by decide), by decide⟩

theorem witness_OnlyHaltEndsARunInSuccess :
    step (vector [19] []) = .next (after (vector [19] [])) ∧ (after (vector [19] [])).status = .halted :=
  ⟨step_eq_after (by decide), by decide⟩

/-- LDARG in the callee: slot 3 holds the saved pc. -/
theorem witness_FrameWordsAreNeverOverwritten :
    (after caller).Inv ∧ step (after caller) = .next (after (after caller)) ∧
      ((3 : Nat) : Int) < floorOf (after caller).fp ∧ ((3 : Nat) : Int) < floorOf (after (after caller)).fp :=
  ⟨inv_callee (by decide) (by decide) (by decide) (by decide) (by decide) (by decide), step_eq_after (by decide), by decide,
    by decide⟩

/-- Two states that differ in slot 1, above sp = 0. -/
theorem witness_StaleSlotsAreInvisible :
    (vector [18] [4]).Sound ∧ ({ vector [18] [4] with stack := memoryOf [4, 9] } : State).Sound ∧
      StaleEq (vector [18] [4]) { vector [18] [4] with stack := memoryOf [4, 9] } ∧
      vector [18] [4] ≠ { vector [18] [4] with stack := memoryOf [4, 9] } := by
  refine ⟨by decide, by decide, ⟨rfl, rfl, rfl, rfl, rfl, rfl, rfl, fun i hi => ?_⟩, by decide⟩
  have h0 : (vector [18] [4]).sp = 0 := by decide
  rw [h0] at hi
  obtain rfl : i = 0 := by omega
  decide

theorem witness_ListingAssemblesToTheEncodings :
    (∀ i ∈ [Instr.const (-128), .call 127 0, .halt], i.wf 8 = true) ∧
      (Instr.call 127 128).wf 8 = false ∧ (Instr.load (-129)).wf 8 = false := by decide

/-- At W = 8, the sum that wraps. -/
theorem witness_EveryWordHasTheWidthGiven :
    (∃ s, init defaultOpcodes 100 [19] 0 8 8 = .ok s) ∧
    (∃ s : State, s.params.wordBits = 8 ∧ s.Inv ∧ step s = .next (after s)) := by
  refine ⟨⟨_, rfl⟩, let s := vector [2] [127, 1]; { s with params := { s.params with wordBits := 8 } }, rfl,
    inv_top (by decide) (by decide) (by decide) (by decide) (by decide) (by decide), step_eq_after (by decide)⟩

end Sys2Proof.Tests
end

