-- ==== Sys2Proof/Proofs/State.lean ====
section
/-! PROOF. The state right after construction (spec 10_state.md R39), for any parameters and at reset. -/

namespace Sys2Proof.Machine

/-- R29, R39: the memory that lists nothing reads as the reset value of every cell. -/
@[simp] theorem Memory.read_empty (a : Nat) : ({ cells := [] } : Memory).read a = 0 := rfl

/-- R39, R137: the data memory after construction holds 0 in every cell, whatever the parameters. -/
theorem construct_data_read (p : Params) (a : Nat) : (State.construct p).data.read a = 0 := by
  rw [construct_data, Memory.read_empty]

/-- Settles O37: `State.reset` is a constructed state, so each value is the one construction gives for any
parameters. -/
theorem resetHasTheStatedValues : Obligations.ResetHasTheStatedValues := by
  unfold Obligations.ResetHasTheStatedValues State.reset
  exact ⟨construct_pc _, construct_sp _, construct_fp _, construct_data_read _, construct_out _, construct_status _⟩

end Sys2Proof.Machine
end

section
/-! PROOF. What one step can do, and the parameters no step writes (spec 20_memory.md R43, 10_state.md R23). -/

namespace Sys2Proof.Machine

/-- R44, R119: the cut-off rule raises a fault on every path, so its only next states are faults taken. -/
theorem execCutOff_next {m : Mnemonic} {s t : State} (h : execCutOff m s = .next t) : ∃ k, t = takeFault k s := by
  refine (commit_cases (P := False) h fun hok => ?_).resolve_right id
  split at hok
  · obtain ⟨_, _, herr⟩ := (bind_eq_ok _ _ _).mp hok
    cases herr
  · cases hok

/-- R141: a step that answers was taken while RUNNING, and it took a fault or executed the instruction at pc. -/
theorem step_next {s t : State} (h : step s = .next t) :
    s.status = .running ∧ FaultOr s t (∃ i, fetchDecode s = .instr i ∧ exec i s = .next t) := by
  unfold step at h
  cases hs : s.status with
  | running =>
    rw [hs] at h
    refine ⟨rfl, ?_⟩
    cases hd : fetchDecode s with
    | instr i => exact .inr ⟨i, rfl, by simpa only [hd] using h⟩
    | noOpcode =>
      simp only [hd] at h
      exact commit_cases h nofun
    | unknownOpcode =>
      simp only [hd] at h
      exact commit_cases h nofun
    | cutOff m =>
      simp only [hd] at h
      exact .inl (execCutOff_next h)
  | halted => simp only [hs, reduceCtorEq] at h
  | faulted k fpc => simp only [hs, reduceCtorEq] at h

/-- Taking a fault keeps the parameters (R121), so an instruction keeps them when the state it commits does. -/
theorem FaultOr.params_eq {s t : State} {P : Prop} (h : FaultOr s t P) (hP : P → t.params = s.params) :
    t.params = s.params := by
  rcases h with ⟨k, rfl⟩ | h
  · exact takeFault_params k s
  · exact hP h

theorem BinaryCommits.params_eq {f : Int → Int → Int} {s t : State} (h : BinaryCommits f s t) :
    t.params = s.params := by
  obtain ⟨_, _, _, rfl⟩ := h
  rfl

/-- R43, instruction by instruction: no state an instruction commits differs from the one before in a parameter. -/
theorem exec_next_params {i : Instr} {s t : State} (h : exec i s = .next t) : t.params = s.params := by
  cases i with
  | const v => exact (exec_const_next h).params_eq fun ⟨_, ht⟩ => ht ▸ rfl
  | add => exact (exec_add_next h).params_eq BinaryCommits.params_eq
  | sub => exact (exec_sub_next h).params_eq BinaryCommits.params_eq
  | mul => exact (exec_mul_next h).params_eq BinaryCommits.params_eq
  | lt => exact (exec_lt_next h).params_eq BinaryCommits.params_eq
  | eq => exact (exec_eq_next h).params_eq BinaryCommits.params_eq
  | jmp a => exact (exec_jmp_next h).params_eq fun ⟨_, ht⟩ => ht ▸ rfl
  | jmpt a =>
    refine (exec_jmpt_next h).params_eq ?_
    rintro ⟨_, ⟨_, _, rfl⟩ | ⟨_, rfl⟩⟩
    · rfl
    · rfl
  | jmpf a =>
    refine (exec_jmpf_next h).params_eq ?_
    rintro ⟨_, ⟨_, _, rfl⟩ | ⟨_, rfl⟩⟩
    · rfl
    · rfl
  | gload => exact (exec_gload_next h).params_eq fun ⟨_, _, ht⟩ => ht ▸ rfl
  | gstore a => exact (exec_gstore_next h).params_eq fun ⟨_, _, ht⟩ => ht ▸ rfl
  | load off => exact (exec_load_next h).params_eq fun ⟨_, _, ht⟩ => ht ▸ rfl
  | ldarg off => exact (exec_ldarg_next h).params_eq fun ⟨_, _, ht⟩ => ht ▸ rfl
  | store off => exact (exec_store_next h).params_eq fun ⟨_, _, ht⟩ => ht ▸ rfl
  | call a n => exact (exec_call_next h).params_eq fun ⟨_, _, _, _, ht⟩ => ht ▸ rfl
  | ret =>
    refine (exec_ret_next h).params_eq ?_
    rintro ⟨_, _, _, _, _, _, _, _, _, _, _, _, rfl⟩
    rfl
  | print => exact (exec_print_next h).params_eq fun ⟨_, ht⟩ => ht ▸ rfl
  | pop => exact (exec_pop_next h).params_eq fun ⟨_, ht⟩ => ht ▸ rfl
  | halt => exact (exec_halt_next h).params_eq fun ht => ht ▸ rfl

theorem step_next_params {s t : State} (h : step s = .next t) : t.params = s.params :=
  (step_next h).2.params_eq fun ⟨_, _, hexec⟩ => exec_next_params hexec

/-- Settles O45: CODE is one of the parameters, and a step keeps them all, whether it takes a fault or executes an
instruction. -/
theorem noStepWritesCode : Obligations.NoStepWritesCode := by
  unfold Obligations.NoStepWritesCode
  intro s t h
  have hparams : t.params = s.params := step_next_params h
  exact ⟨congrArg Params.code hparams, hparams⟩

end Sys2Proof.Machine
end

