-- ==== Sys2Proof/Proofs/Encoding.lean ====
section
/-! PROOF. Illegal opcode words (spec 30_encoding.md R71): what the decoder, the fetch and a step make of them, and
which words they are under the default numbering (R66). -/

namespace Sys2Proof

/-- R71: the words after an opcode word that is no mnemonic's value do not matter to the decoder. -/
theorem decode_of_illegal {om : OpcodeMap} {op : Int} (h : ∀ m, om.value m ≠ op) (rest : List Int) :
    decode om (op :: rest) = .unknownOpcode := by
  simp only [decode, OpcodeMap.lookup_none.mpr h]

/-- R66: in table order the default values are 1, 2, ..., 19. -/
theorem defaultOpcodes_values : Mnemonic.all.map defaultOpcodes.value = (List.range' 1 19).map Int.ofNat := by decide

/-- R66: the words the default numbering uses are those from 1 to 19. -/
theorem exists_defaultOpcodes_value {op : Int} : (∃ m, defaultOpcodes.value m = op) ↔ 1 ≤ op ∧ op ≤ 19 := by
  calc (∃ m, defaultOpcodes.value m = op)
      ↔ op ∈ Mnemonic.all.map defaultOpcodes.value := by simp only [List.mem_map, Mnemonic.mem_all, true_and]
    _ ↔ ∃ n : Nat, (1 ≤ n ∧ n < 1 + 19) ∧ (n : Int) = op := by
      simp only [defaultOpcodes_values, List.mem_map, List.mem_range'_1, Int.ofNat_eq_natCast]
    _ ↔ 1 ≤ op ∧ op ≤ 19 := by
      constructor
      · rintro ⟨n, hn, rfl⟩
        omega
      · intro hop
        exact ⟨op.toNat, by omega, by omega⟩

/-- R71: the illegal words of the default numbering. -/
theorem defaultOpcodes_illegal_iff {op : Int} : (∀ m, defaultOpcodes.value m ≠ op) ↔ op < 1 ∨ 19 < op := by
  rw [← not_exists, exists_defaultOpcodes_value]
  omega

end Sys2Proof

namespace Sys2Proof.Machine

/-- R69: with pc inside CODE, the words decoded are the word at pc and those after it. -/
theorem fetchDecode_of_inCode {s : State} (h : s.inCode s.pc) :
    ∃ op rest, s.params.code[s.pc.toNat]? = some op ∧ fetchDecode s = decode s.params.opcodes (op :: rest) := by
  have hlt : s.pc.toNat < s.params.code.length := (Int.toNat_lt h.1).mpr h.2
  refine ⟨s.params.code[s.pc.toNat], s.params.code.drop (s.pc.toNat + 1), List.getElem?_eq_getElem hlt, ?_⟩
  rw [fetchDecode, if_pos h, List.drop_eq_getElem_cons hlt]

/-- R71: a word at pc that is no mnemonic's value decodes to no instruction. -/
theorem fetchDecode_of_illegal {s : State} (h : s.inCode s.pc)
    (hop : ∀ m, s.params.code[s.pc.toNat]? ≠ some (s.params.opcodes.value m)) :
    fetchDecode s = .unknownOpcode := by
  obtain ⟨op, rest, hget, hdecode⟩ := fetchDecode_of_inCode h
  rw [hdecode]
  exact decode_of_illegal (fun m hm => hop m (hm ▸ hget)) rest

/-- R71, R120, R121: executing an unknown opcode records UnknownOpcode at the pc before and changes nothing else. -/
theorem step_of_unknownOpcode {s : State} (hrun : s.status = .running) (h : fetchDecode s = .unknownOpcode) :
    step s = .next (FaultedFrom .unknownOpcode s) := by
  have hstep : step s = execUnknownOpcode s := by simp only [step, hrun, h]
  rw [hstep, execUnknownOpcode, commit_raised]
  rfl

/-- Settles O3: the word at pc decodes to no instruction, and the step of a RUNNING engine takes the fault for it. -/
theorem illegalOpcodeRaisesUnknownOpcode : Obligations.IllegalOpcodeRaisesUnknownOpcode := by
  unfold Obligations.IllegalOpcodeRaisesUnknownOpcode
  exact ⟨fun _ hrun hin hop => step_of_unknownOpcode hrun (fetchDecode_of_illegal hin hop),
    fun _ => defaultOpcodes_illegal_iff⟩

end Sys2Proof.Machine
end

section
/-! PROOF. wrap_W (spec 00_scope.md R14): the signed reading of the low W bits is the integer of the formula. -/

namespace Sys2Proof.Machine

/-- R14: the formula's integer lies in the range of a balanced remainder modulo 2^W and is congruent to `x`, which only
one integer is. -/
theorem wrapW_eq_wrapInt {W : Nat} (h : 1 ≤ W) (x : Int) : wrapW W x = wrapInt W x := by
  have hhalf : 1 ≤ wordHalf W := one_le_wordHalf W
  have hmod : (2 : Int) ^ W = 2 * wordHalf W := by exact_mod_cast two_pow_eq_wordHalf h
  have hnonneg : 0 ≤ (x + wordHalf W) % (2 * wordHalf W) := Int.emod_nonneg _ (by omega)
  have hlt : (x + wordHalf W) % (2 * wordHalf W) < 2 * wordHalf W := Int.emod_lt_of_pos _ (by omega)
  have hcongr : (2 * wordHalf W : Int) ∣ (x + wordHalf W) % (2 * wordHalf W) - wordHalf W - x := by
    rw [sub_sub, add_comm (wordHalf W : Int)]
    exact (Int.mod_modEq _ _).symm.dvd
  rw [wrapW, wrapInt, BitVec.toInt_ofInt, Int.bmod_eq_iff (by positivity), two_pow_eq_wordHalf h, hmod]
  push_cast
  exact ⟨by omega, by omega, hcongr⟩

/-- The parameters of R13 leave no word of width 0, so under them the formula of R14 applies. -/
theorem one_le_wordBits {p : Params} (h : p.InRange) : 1 ≤ p.wordBits := by
  by_contra hW
  have hhalf : wordHalf p.wordBits = 1 := by rw [Nat.lt_one_iff.mp (not_le.mp hW)]; rfl
  have := two_le_wordHalf h
  omega

theorem State.Sound.wrapW_eq_wrapInt {s : State} (hs : s.Sound) (x : Int) :
    wrapW s.params.wordBits x = wrapInt s.params.wordBits x :=
  Machine.wrapW_eq_wrapInt (one_le_wordBits hs.inRange) x

end Sys2Proof.Machine
end

section
/-! PROOF. What a state within its bounds (spec 10_state.md R36) allows: the slots at and above the floor exist, and a
word left on top is read back with the rest of the state as it was. -/

namespace Sys2Proof.Machine

theorem takeFault_eq_faultedFrom (k : FaultKind) (s : State) : takeFault k s = FaultedFrom k s := rfl

theorem State.Sound.opcodes_injective {s : State} (hs : s.Sound) : s.params.opcodes.Injective := by
  obtain ⟨_, _, _, _, hom, _⟩ := hs.inRange
  exact hom

/-- R36, R46: no floor lies below slot 0. -/
theorem State.Sound.floorOf_nonneg {s : State} (hs : s.Sound) : 0 ≤ floorOf s.fp := by
  rcases hs.fp_legal with hfp | hfp
  · rw [hfp, floorOf_zero]
  · rw [floorOf_of_ne (by omega)]
    omega

theorem State.Sound.hasSlot_of_floorOf_le {s : State} (hs : s.Sound) {i : Int} (hfloor : floorOf s.fp ≤ i)
    (hsp : i ≤ s.sp) : s.hasSlot i :=
  ⟨hs.floorOf_nonneg.trans hfloor, hsp.trans_lt hs.sp_lt⟩

/-- R46: two values may be popped when the word beneath the top is not below the floor. -/
theorem two_le_poppable_iff {s : State} : 2 ≤ s.poppable ↔ floorOf s.fp ≤ s.sp - 1 := by
  rw [State.poppable]
  omega

/-- The frame of an instruction that leaves one word on top and moves only pc and sp (R47, R78). -/
theorem leaves_word_on_top {s t : State} (hs : s.Sound) {pc i v : Int} (hi : 0 ≤ i)
    (ht : t = { s with pc := pc, sp := i, stack := s.stack.write i.toNat v }) :
    Moves s t pc i ∧ t.top 0 = v ∧ StackSameBut i s t ∧ DataSame s t := by
  subst ht
  refine ⟨⟨rfl, rfl, rfl, rfl, rfl, rfl⟩, ?_, fun j hj => ?_, fun _ => rfl⟩
  · show (s.stack.write i.toNat v).read (i - 0).toNat = v
    rw [sub_zero]
    exact Memory.read_write_same _ hs.stack_wf _ _
  · exact Memory.read_write_other _ _ _ _ (by omega)

end Sys2Proof.Machine
end

section
/-! PROOF. An instruction cut off by the end of CODE (spec 20_memory.md R44): what the decoder, the fetch and a step
make of it. -/

namespace Sys2Proof

/-- R64: one immediate is cut off when no word is left. -/
theorem readF1_of_short {m : Mnemonic} {f : Int → Instr} {ws : List Int} (h : ws.length + 1 < Format.f1.words) :
    readF1 m f ws = .cutOff m := by
  match ws, h with
  | [], _ => rfl

/-- R64: two immediates are cut off when no word is left, and when one is. -/
theorem readF2_of_short {m : Mnemonic} {f : Int → Int → Instr} {ws : List Int}
    (h : ws.length + 1 < Format.f2.words) : readF2 m f ws = .cutOff m := by
  match ws, h with
  | [], _ => rfl
  | [_], _ => rfl

/-- R64: an instruction of format F0 is its opcode word, so no end of CODE cuts it off. -/
theorem not_short_f0 (ws : List Int) : ¬ws.length + 1 < Format.f0.words := by
  simp only [Format.words]
  omega

/-- R64, R73: with fewer words than its format asks for, a mnemonic is read as cut off. -/
theorem readImmediates_of_short {m : Mnemonic} {ws : List Int} (h : ws.length + 1 < m.format.words) :
    readImmediates m ws = .cutOff m := by
  cases m
  case const | jmp | jmpt | jmpf | gstore | load | ldarg | store => exact readF1_of_short h
  case call => exact readF2_of_short h
  case add | sub | mul | lt | eq | gload | ret | print | pop | halt => exact absurd h (not_short_f0 ws)

end Sys2Proof

namespace Sys2Proof.Machine

/-- R44, R69: an instruction cut off is decoded as its mnemonic and no more. -/
theorem fetchDecode_of_cutsOff {s : State} {m : Mnemonic} (hom : s.params.opcodes.Injective) (h : s.CutsOff m) :
    fetchDecode s = .cutOff m := by
  obtain ⟨_, hin, hget, hshort⟩ := h
  obtain ⟨hlt, hop⟩ := List.getElem?_eq_some_iff.mp hget
  have hrest : (s.params.code.drop (s.pc.toNat + 1)).length + 1 < m.format.words := by
    rw [List.length_drop]
    have : s.codeSize = s.params.code.length := rfl
    omega
  rw [fetchDecode, if_pos hin, List.drop_eq_getElem_cons hlt, hop]
  simp only [decode, OpcodeMap.lookup_value hom, readImmediates_of_short hrest]

/-- R141: the step of an engine whose instruction is cut off follows the cut-off rule of its mnemonic. -/
theorem step_of_cutsOff {s : State} {m : Mnemonic} (hom : s.params.opcodes.Injective) (h : s.CutsOff m) :
    step s = execCutOff m s := by
  have hrun : s.status = .running := h.1
  simp only [step, hrun, fetchDecode_of_cutsOff hom h]

/-- R44, R119: a mnemonic that pops nothing before its immediate fetch raises that fetch's fault. -/
theorem execCutOff_of_fetch_first {m : Mnemonic} (hm : popsBeforeImmediate m = false) (s : State) :
    execCutOff m s = .next (FaultedFrom .invalidCodeAddress s) := by
  simp only [execCutOff, hm, Bool.false_eq_true, if_false, commit_raised, takeFault_eq_faultedFrom]

end Sys2Proof.Machine
end

section
/-! PROOF. CONST, the arithmetic and the compares (spec 40_arith.md): the fault each can take, and the state each
commits. -/

namespace Sys2Proof.Machine

theorem exec_const (v : Int) (s : State) : exec (.const v) s = commit s (push v (fetched 2 s)) := rfl

/-- R78: the instruction is one of the binary operand protocol, with result `f a b` for a beneath b. -/
def IsBinary (i : Instr) (f : State → Int → Int → Int) : Prop :=
  ∀ s : State, exec i s = commit s (binary (f s) (fetched 1 s))

theorem isBinary_add : IsBinary .add fun s a b => wrapW s.params.wordBits (a + b) := fun _ => rfl
theorem isBinary_sub : IsBinary .sub fun s a b => wrapW s.params.wordBits (a - b) := fun _ => rfl
theorem isBinary_mul : IsBinary .mul fun s a b => wrapW s.params.wordBits (a * b) := fun _ => rfl
theorem isBinary_lt : IsBinary .lt fun _ a b => truthWord (decide (a > b)) := fun _ => rfl
theorem isBinary_eq : IsBinary .eq fun _ a b => truthWord (decide (a = b)) := fun _ => rfl

/-- R78: with fewer than two poppable values the first pop or the second is below the floor. -/
theorem binary_under {f : Int → Int → Int} {s : State} (hs : s.Sound) (h : s.sp - 1 < floorOf s.fp) :
    binary f s = .error (.raised .stackUnderflow) := by
  by_cases hfirst : floorOf s.fp ≤ s.sp
  · have hpop := pop_eq_ok.mpr ⟨hfirst, hs.hasSlot_of_floorOf_le hfirst le_rfl, rfl, rfl⟩
    have hsecond := pop_under (s := { s with sp := s.sp - 1 }) h
    simp only [binary, hpop, ok_bind, hsecond, error_bind]
  · simp only [binary, pop_under (not_le.mp hfirst), error_bind]

theorem IsBinary.exec_under {i : Instr} {f : State → Int → Int → Int} (hi : IsBinary i f) {s : State}
    (hs : s.Sound) (h : s.poppable < 2) : exec i s = .next (FaultedFrom .stackUnderflow s) := by
  have hfloor : s.sp - 1 < floorOf s.fp := not_le.mp fun hle => not_le.mpr h (two_le_poppable_iff.mpr hle)
  rw [hi s, binary_under (s := fetched 1 s) hs hfloor, commit_raised, takeFault_eq_faultedFrom]

/-- R78: with two poppable values the result stands in the slot of the first operand, which is the new top. -/
theorem IsBinary.exec_pushes {i : Instr} {f : State → Int → Int → Int} (hi : IsBinary i f) {s : State}
    (hs : s.Sound) (h : 2 ≤ s.poppable) {v : Int} (hv : f s (s.top 1) (s.top 0) = v) :
    ∃ t, exec i s = .next t ∧ Moves s t (s.pc + 1) (s.sp - 1) ∧ t.top 0 = v ∧
      StackSameBut (s.sp - 1) s t ∧ DataSame s t := by
  have hfloor := two_le_poppable_iff.mp h
  have hbelow : s.sp - 1 ≤ s.sp := by omega
  have hcommit := (binary_eq_ok (s := fetched 1 s) (f := f s)).mpr
    ⟨hfloor, hs.hasSlot_of_floorOf_le (hfloor.trans hbelow) le_rfl, hs.hasSlot_of_floorOf_le hfloor hbelow, rfl⟩
  refine ⟨_, (hi s).trans (congrArg (commit s) hcommit), leaves_word_on_top hs (hs.floorOf_nonneg.trans hfloor) ?_⟩
  rw [← hv, State.top, State.top, sub_zero]
  rfl

/-- A truth value is the `if` that the rules of the compares write (R83, R84, R86). -/
theorem truthWord_decide (p : Prop) [Decidable p] : truthWord (decide p) = if p then 1 else 0 := by
  simp only [truthWord, decide_eq_true_eq]

/-- R79: CONST on a full stack. -/
theorem exec_const_full {s : State} (v : Int) (h : s.sp = s.params.stackCapacity - 1) :
    exec (.const v) s = .next (FaultedFrom .stackOverflow s) := by
  have hfull : ((fetched 2 s).params.stackCapacity : Int) ≤ (fetched 2 s).sp + 1 := by
    rw [fetched_params, fetched_sp]
    omega
  rw [exec_const, push_full v hfull, commit_raised, takeFault_eq_faultedFrom]

/-- R79: CONST with a free slot. -/
theorem exec_const_pushes {s : State} (hs : s.Sound) (v : Int) (h : s.sp < s.params.stackCapacity - 1) :
    ∃ t, exec (.const v) s = .next t ∧ Moves s t (s.pc + 2) (s.sp + 1) ∧ t.top 0 = v ∧
      StackSameBut (s.sp + 1) s t ∧ DataSame s t := by
  have hge := hs.sp_ge
  have hpush := (push_eq_ok (s := fetched 2 s) (v := v)).mpr ⟨show s.hasSlot (s.sp + 1) by omega, rfl⟩
  exact ⟨_, (exec_const v s).trans (congrArg (commit s) hpush), leaves_word_on_top hs (by omega) rfl⟩

/-- Settles O10: the immediate fetch comes first, then the push, which finds a free slot or none. -/
theorem constPushesItsImmediate : Obligations.ConstPushesItsImmediate := by
  unfold Obligations.ConstPushesItsImmediate
  refine ⟨fun _ _ => rfl, rfl, fun s hs hcut => ?_, fun _ v _ => exec_const_full v,
    fun _ v hs => exec_const_pushes hs v⟩
  rw [step_of_cutsOff hs.opcodes_injective hcut, execCutOff_of_fetch_first rfl]

/-- Settles O11: ADD is the binary protocol with wrap_W(a + b), which the formula of R14 gives. -/
theorem addPushesTheWrappedSum : Obligations.AddPushesTheWrappedSum := by
  unfold Obligations.AddPushesTheWrappedSum
  exact ⟨fun _ => rfl, rfl, fun _ => isBinary_add.exec_under,
    fun _ hs h => isBinary_add.exec_pushes hs h (hs.wrapW_eq_wrapInt _)⟩

/-- Settles O12: SUB is the binary protocol with wrap_W(a - b), the top b taken from the word a beneath it. -/
theorem subPushesTheWrappedDifference : Obligations.SubPushesTheWrappedDifference := by
  unfold Obligations.SubPushesTheWrappedDifference
  exact ⟨fun _ => rfl, rfl, fun _ => isBinary_sub.exec_under,
    fun _ hs h => isBinary_sub.exec_pushes hs h (hs.wrapW_eq_wrapInt _)⟩

/-- Settles O13: MUL is the binary protocol with wrap_W(a * b), the product of the signed readings. -/
theorem mulPushesTheWrappedProduct : Obligations.MulPushesTheWrappedProduct := by
  unfold Obligations.MulPushesTheWrappedProduct
  exact ⟨fun _ => rfl, rfl, fun _ => isBinary_mul.exec_under,
    fun _ hs h => isBinary_mul.exec_pushes hs h (hs.wrapW_eq_wrapInt _)⟩

/-- Settles O14: LT is the binary protocol with the truth of a > b, where a is the word beneath the top. -/
theorem ltPushesWhetherTheFirstIsGreater : Obligations.LtPushesWhetherTheFirstIsGreater := by
  unfold Obligations.LtPushesWhetherTheFirstIsGreater
  exact ⟨fun _ => rfl, rfl, fun _ => isBinary_lt.exec_under,
    fun _ hs h => isBinary_lt.exec_pushes hs h (truthWord_decide _)⟩

/-- Settles O15: EQ is the binary protocol with the truth of a = b. -/
theorem eqPushesWhetherTheTwoAreEqual : Obligations.EqPushesWhetherTheTwoAreEqual := by
  unfold Obligations.EqPushesWhetherTheTwoAreEqual
  exact ⟨fun _ => rfl, rfl, fun _ => isBinary_eq.exec_under,
    fun _ hs h => isBinary_eq.exec_pushes hs h ((truthWord_decide _).trans (if_congr eq_comm rfl rfl))⟩

end Sys2Proof.Machine
end

section
/-! PROOF. The one pop that opens an instruction (spec 20_memory.md R48), the cut-off fault of one that fetches first
(R44), and the frame of one that moves only pc and sp. -/

namespace Sys2Proof.Machine

/-- The state with pc and sp moved. -/
abbrev State.movedTo (s : State) (pc sp : Int) : State := { s with pc := pc, sp := sp }

/-- The frame of an instruction that moves only pc and sp. -/
theorem moves_movedTo (s : State) (pc sp : Int) :
    Moves s (s.movedTo pc sp) pc sp ∧ StackSame s (s.movedTo pc sp) ∧ DataSame s (s.movedTo pc sp) :=
  ⟨⟨rfl, rfl, rfl, rfl, rfl, rfl⟩, fun _ => rfl, fun _ => rfl⟩

/-- R46: a value may be popped when the top is not below the floor. -/
theorem one_le_poppable_iff {s : State} : 1 ≤ s.poppable ↔ floorOf s.fp ≤ s.sp := by
  rw [State.poppable]
  omega

/-- R48: once the words are fetched, a pop takes the top word and lowers sp. -/
theorem State.Sound.pop_fetched {s : State} (hs : s.Sound) (n : Nat) (h : 1 ≤ s.poppable) :
    pop (fetched n s) = .ok (s.top 0, s.movedTo (s.pc + n) (s.sp - 1)) := by
  have hfloor := one_le_poppable_iff.mp h
  rw [State.top, sub_zero]
  exact (pop_eq_ok (s := fetched n s)).mpr ⟨hfloor, hs.hasSlot_of_floorOf_le hfloor le_rfl, rfl, rfl⟩

/-- R48: with nothing to pop, the pop after the fetch raises StackUnderflow. -/
theorem pop_fetched_under {s : State} (n : Nat) (h : s.poppable < 1) :
    pop (fetched n s) = .error (.raised .stackUnderflow) :=
  pop_under (s := fetched n s) (not_le.mp fun hle => not_le.mpr h (one_le_poppable_iff.mpr hle))

/-- R44, R119: the step of an instruction that is cut off and pops nothing before its immediate fetch. -/
theorem State.Sound.step_of_cutsOff_fetch_first {s : State} {m : Mnemonic} (hs : s.Sound) (h : s.CutsOff m)
    (hm : popsBeforeImmediate m = false) : step s = .next (FaultedFrom .invalidCodeAddress s) := by
  rw [step_of_cutsOff hs.opcodes_injective h, execCutOff_of_fetch_first hm]

end Sys2Proof.Machine
end

section
/-! PROOF. The branches (spec 41_branch.md): the faults each can take, in order, and the state each commits. -/

namespace Sys2Proof.Machine

theorem exec_jmp (addr : Int) (s : State) : exec (.jmp addr) s = commit s (transfer addr (fetched 2 s)) := rfl

/-- R87, R89: JMP to a target outside CODE. -/
theorem exec_jmp_out {s : State} {addr : Int} (h : ¬s.inCode addr) :
    exec (.jmp addr) s = .next (FaultedFrom .invalidCodeAddress s) := by
  rw [exec_jmp, transfer_out (s := fetched 2 s) h, commit_raised, takeFault_eq_faultedFrom]

/-- R87, R89: JMP to a target in CODE. -/
theorem exec_jmp_taken {s : State} {addr : Int} (h : s.inCode addr) :
    ∃ t, exec (.jmp addr) s = .next t ∧ Moves s t addr s.sp ∧ StackSame s t ∧ DataSame s t := by
  have htransfer := (transfer_eq_ok (s := fetched 2 s)).mpr ⟨h, rfl⟩
  exact ⟨_, (exec_jmp addr s).trans (congrArg (commit s) htransfer), moves_movedTo s addr s.sp⟩

/-- R88: a word is truthy when it is not 0. -/
theorem truthy_iff {v : Int} : truthy v = true ↔ v ≠ 0 := bne_iff_ne

/-- R90, R91: what a conditional branch does with the word `v` it popped: it jumps, or it goes on with the next
instruction and leaves its target unchecked. -/
def branchOn (jumps : Int → Prop) [DecidablePred jumps] (addr v : Int) (s : State) : Except Stop State :=
  if jumps v then transfer addr s else .ok s

/-- R90, R91: the instruction pops a word, and then branches on it. -/
def IsConditional (i : Int → Instr) (jumps : Int → Prop) [DecidablePred jumps] : Prop :=
  ∀ (addr : Int) (s : State),
    exec (i addr) s = commit s (pop (fetched 2 s) >>= fun p => branchOn jumps addr p.1 p.2)

/-- R90: JMPT jumps on a truthy word. -/
theorem isConditional_jmpt : IsConditional .jmpt (· ≠ 0) := by
  intro addr s
  have hbranch (v : Int) (u : State) :
      branchOn (· ≠ 0) addr v u = if truthy v then transfer addr u else .ok u :=
    if_congr truthy_iff.symm rfl rfl
  simp only [hbranch]
  rfl

/-- R91: JMPF goes on after a truthy word, so it jumps on 0. -/
theorem isConditional_jmpf : IsConditional .jmpf (· = 0) := by
  intro addr s
  have hbranch (v : Int) (u : State) :
      branchOn (· = 0) addr v u = if truthy v then .ok u else transfer addr u :=
    (ite_not _ _ _).symm.trans (if_congr truthy_iff.symm rfl rfl)
  simp only [hbranch]
  rfl

section conditional
variable {i : Int → Instr} {jumps : Int → Prop} [DecidablePred jumps] (hi : IsConditional i jumps) {s : State}
  (addr : Int)
include hi

/-- R48, R90, R91: the pop comes first, so its fault does. -/
theorem IsConditional.exec_under (h : s.poppable < 1) :
    exec (i addr) s = .next (FaultedFrom .stackUnderflow s) := by
  rw [hi, pop_fetched_under 2 h, error_bind, commit_raised, takeFault_eq_faultedFrom]

/-- R90, R91: with a value to pop, the branch is on the top word, with pc past the immediate and sp lowered. -/
theorem IsConditional.exec_popped (hs : s.Sound) (h : 1 ≤ s.poppable) :
    exec (i addr) s = commit s (branchOn jumps addr (s.top 0) (s.movedTo (s.pc + 2) (s.sp - 1))) := by
  rw [hi, hs.pop_fetched 2 h, ok_bind]
  rfl

/-- R87: a jump that is taken checks its target. -/
theorem IsConditional.exec_taken_out (hs : s.Sound) (h : 1 ≤ s.poppable) (hjump : jumps (s.top 0))
    (hout : ¬s.inCode addr) : exec (i addr) s = .next (FaultedFrom .invalidCodeAddress s) := by
  rw [hi.exec_popped addr hs h, branchOn, if_pos hjump,
    transfer_out (s := s.movedTo (s.pc + 2) (s.sp - 1)) hout, commit_raised, takeFault_eq_faultedFrom]

theorem IsConditional.exec_taken (hs : s.Sound) (h : 1 ≤ s.poppable) (hjump : jumps (s.top 0))
    (hin : s.inCode addr) :
    ∃ t, exec (i addr) s = .next t ∧ Moves s t addr (s.sp - 1) ∧ StackSame s t ∧ DataSame s t := by
  refine ⟨_, ?_, moves_movedTo s addr (s.sp - 1)⟩
  rw [hi.exec_popped addr hs h, branchOn, if_pos hjump,
    transfer_eq_ok (s := s.movedTo (s.pc + 2) (s.sp - 1)) |>.mpr ⟨hin, rfl⟩, commit_ok]

/-- R92: a jump that is not taken never checks its target. -/
theorem IsConditional.exec_untaken (hs : s.Sound) (h : 1 ≤ s.poppable) (hstay : ¬jumps (s.top 0)) :
    ∃ t, exec (i addr) s = .next t ∧ Moves s t (s.pc + 2) (s.sp - 1) ∧ StackSame s t ∧ DataSame s t := by
  refine ⟨_, ?_, moves_movedTo s (s.pc + 2) (s.sp - 1)⟩
  rw [hi.exec_popped addr hs h, branchOn, if_neg hstay, commit_ok]

end conditional

/-- Settles O17: JMP is the target check and the transfer alone, after the immediate fetch. -/
theorem jmpGoesToItsTarget : Obligations.JmpGoesToItsTarget := by
  unfold Obligations.JmpGoesToItsTarget
  exact ⟨fun _ _ => rfl, rfl, fun _ hs hcut => hs.step_of_cutsOff_fetch_first hcut rfl,
    fun _ _ => exec_jmp_out, fun _ _ => exec_jmp_taken⟩

/-- Settles O18: JMPT is the conditional branch that jumps on a word other than 0. -/
theorem jmptJumpsOnANonzeroWord : Obligations.JmptJumpsOnANonzeroWord := by
  unfold Obligations.JmptJumpsOnANonzeroWord
  exact ⟨fun _ _ => rfl, rfl, fun _ hs hcut => hs.step_of_cutsOff_fetch_first hcut rfl,
    fun _ addr _ => isConditional_jmpt.exec_under addr,
    fun _ => isConditional_jmpt.exec_taken_out,
    fun _ => isConditional_jmpt.exec_taken,
    fun _ addr hs h hzero => isConditional_jmpt.exec_untaken addr hs h (not_not.mpr hzero)⟩

/-- Settles O19: JMPF is the conditional branch that jumps on 0. -/
theorem jmpfJumpsOnZero : Obligations.JmpfJumpsOnZero := by
  unfold Obligations.JmpfJumpsOnZero
  exact ⟨fun _ _ => rfl, rfl, fun _ hs hcut => hs.step_of_cutsOff_fetch_first hcut rfl,
    fun _ addr _ => isConditional_jmpf.exec_under addr,
    fun _ => isConditional_jmpf.exec_taken_out,
    fun _ => isConditional_jmpf.exec_taken,
    fun _ => isConditional_jmpf.exec_untaken⟩

end Sys2Proof.Machine
end

section
/-! PROOF. Loads and stores (spec 42_load_store.md): the faults each can take, in order, and the state each commits.
The families are the instructions that pop first (GLOAD, GSTORE, STORE), the stores into data memory (GSTORE, STORE)
and the pushes of a frame-relative slot (LOAD, LDARG). -/

namespace Sys2Proof.Machine

/-- R94, R95, R98: the instruction of `n` words pops a word, and goes on with that word and the state after the pop. -/
def PopsFirst (i : Instr) (n : Nat) (rest : State → Int × State → Except Stop State) : Prop :=
  ∀ s : State, exec i s = commit s (pop (fetched n s) >>= rest s)

/-- R48: the pop comes first, so its fault does. -/
theorem PopsFirst.exec_under {i : Instr} {n : Nat} {rest : State → Int × State → Except Stop State}
    (hi : PopsFirst i n rest) {s : State} (h : s.poppable < 1) :
    exec i s = .next (FaultedFrom .stackUnderflow s) := by
  rw [hi s, pop_fetched_under n h, error_bind, commit_raised, takeFault_eq_faultedFrom]

/-- R48: with a value to pop, the rest runs on the top word, with pc past the words and sp lowered. -/
theorem PopsFirst.exec_popped {i : Instr} {n : Nat} {rest : State → Int × State → Except Stop State}
    (hi : PopsFirst i n rest) {s : State} (hs : s.Sound) (h : 1 ≤ s.poppable) :
    exec i s = commit s (rest s (s.top 0, s.movedTo (s.pc + n) (s.sp - 1))) := by
  rw [hi s, hs.pop_fetched n h, ok_bind]

/-- R44, R119: a mnemonic that pops before its immediate fetch runs that pop, and then the fetch raises its fault. -/
theorem execCutOff_of_pop_first {m : Mnemonic} (hm : popsBeforeImmediate m = true) (s : State) :
    execCutOff m s = commit s (pop (fetched 1 s) >>= fun _ => .error (.raised .invalidCodeAddress)) := by
  simp only [execCutOff, hm, if_true]

/-- R95, R98, R119: cut off with a value to pop, the pop succeeds and commits nothing, since the fetch then faults. -/
theorem State.Sound.step_of_cutsOff_pop_first {s : State} {m : Mnemonic} (hs : s.Sound) (hcut : s.CutsOff m)
    (hm : popsBeforeImmediate m = true) (h : 1 ≤ s.poppable) :
    step s = .next (FaultedFrom .invalidCodeAddress s) := by
  rw [step_of_cutsOff hs.opcodes_injective hcut, execCutOff_of_pop_first hm, hs.pop_fetched 1 h, ok_bind,
    commit_raised, takeFault_eq_faultedFrom]

/-- R95, R98, R119: cut off with nothing to pop, the pop's fault comes first. -/
theorem State.Sound.step_of_cutsOff_pop_first_under {s : State} {m : Mnemonic} (hs : s.Sound) (hcut : s.CutsOff m)
    (hm : popsBeforeImmediate m = true) (h : s.poppable < 1) :
    step s = .next (FaultedFrom .stackUnderflow s) := by
  rw [step_of_cutsOff hs.opcodes_injective hcut, execCutOff_of_pop_first hm, pop_fetched_under 1 h, error_bind,
    commit_raised, takeFault_eq_faultedFrom]

/-! ### GLOAD -/

/-- R94: GLOAD reads the data cell whose address it popped, and pushes the word. -/
theorem popsFirst_gload :
    PopsFirst .gload 1 fun _ p => memRead (absolute p.1) p.2 >>= fun v => push v p.2 := fun _ => rfl

/-- R94: GLOAD of an address outside the data memory. -/
theorem exec_gload_out {s : State} (hs : s.Sound) (h : 1 ≤ s.poppable) (hout : ¬s.hasCell (s.top 0)) :
    exec .gload s = .next (FaultedFrom .invalidMemoryAddress s) := by
  rw [popsFirst_gload.exec_popped hs h,
    memRead_out (s := s.movedTo (s.pc + (1 : Nat)) (s.sp - 1)) (a := absolute (s.top 0)) hout, error_bind,
    commit_raised, takeFault_eq_faultedFrom]

/-- R47, R119: a push into the slot a pop has just freed cannot overflow. -/
theorem push_after_pop {s : State} (h : s.hasSlot s.sp) (pc v : Int) :
    push v (s.movedTo pc (s.sp - 1)) = .ok { s with pc := pc, stack := s.stack.write s.sp.toNat v } := by
  rw [push_eq_ok]
  simp only [sub_add_cancel, and_true]
  exact h

/-- R94: GLOAD of an address in the data memory leaves its word in the slot the address stood in. -/
theorem exec_gload_reads {s : State} (hs : s.Sound) (h : 1 ≤ s.poppable) (hin : s.hasCell (s.top 0)) :
    ∃ t, exec .gload s = .next t ∧ Moves s t (s.pc + 1) s.sp ∧ t.top 0 = s.data.read (s.top 0).toNat ∧
      StackSameBut s.sp s t ∧ DataSame s t := by
  have hslot := hs.hasSlot_of_floorOf_le (one_le_poppable_iff.mp h) le_rfl
  have hread := (memRead_eq_ok (s := s.movedTo (s.pc + (1 : Nat)) (s.sp - 1))).mpr ⟨hin, rfl⟩
  refine ⟨_, ?_, leaves_word_on_top hs hslot.1 rfl⟩
  rw [popsFirst_gload.exec_popped hs h, absolute, hread, ok_bind, push_after_pop hslot, commit_ok]
  rfl

/-- Settles O21: GLOAD pops first, reads the data cell, and pushes into the slot its pop freed. -/
theorem gloadReadsDataMemory : Obligations.GloadReadsDataMemory := by
  unfold Obligations.GloadReadsDataMemory
  exact ⟨fun _ => rfl, rfl, fun _ _ => popsFirst_gload.exec_under, fun _ => exec_gload_out,
    fun _ => exec_gload_reads⟩

/-! ### GSTORE and STORE -/

/-- R95, R98: the instruction pops a word and stores it in the data cell `address s` of the state before. -/
abbrev StoresData (i : Instr) (address : State → Int) : Prop :=
  PopsFirst i 2 fun s p => memWrite (address s) p.1 p.2

theorem storesData_gstore (addr : Int) : StoresData (.gstore addr) fun _ => absolute addr := fun _ => rfl
theorem storesData_store (offset : Int) : StoresData (.store offset) (frameUp · offset) := fun _ => rfl

/-- R50, R52: a store outside the data memory. -/
theorem StoresData.exec_out {i : Instr} {address : State → Int} (hi : StoresData i address) {s : State}
    (hs : s.Sound) (h : 1 ≤ s.poppable) (hout : ¬s.hasCell (address s)) :
    exec i s = .next (FaultedFrom .invalidMemoryAddress s) := by
  rw [hi.exec_popped hs h, memWrite_out (s := s.movedTo (s.pc + (2 : Nat)) (s.sp - 1)) (s.top 0) hout,
    commit_raised, takeFault_eq_faultedFrom]

/-- R52, R95, R98: a store inside the data memory changes that cell, pc and sp, and no slot of the stack. -/
theorem StoresData.exec_writes {i : Instr} {address : State → Int} (hi : StoresData i address) {s : State}
    (hs : s.Sound) (h : 1 ≤ s.poppable) (hin : s.hasCell (address s)) :
    ∃ t, exec i s = .next t ∧ Moves s t (s.pc + 2) (s.sp - 1) ∧ t.data.read (address s).toNat = s.top 0 ∧
      DataSameBut (address s) s t ∧ StackSame s t := by
  have hwrite := (memWrite_eq_ok (s := s.movedTo (s.pc + (2 : Nat)) (s.sp - 1)) (v := s.top 0)).mpr ⟨hin, rfl⟩
  refine ⟨_, (hi.exec_popped hs h).trans (congrArg (commit s) hwrite), ⟨rfl, rfl, rfl, rfl, rfl, rfl⟩,
    Memory.read_write_same _ hs.data_wf _ _, fun b hb => ?_, fun _ => rfl⟩
  have hcell := hin.1
  exact Memory.read_write_other _ _ _ _ (by omega)

/-- R95, R98: two stores to one address have the same outcome. -/
theorem StoresData.exec_eq {i j : Instr} {a b : State → Int} (hi : StoresData i a) (hj : StoresData j b) {s : State}
    (h : a s = b s) : exec i s = exec j s := by
  rw [hi s, hj s]
  simp only [h]

/-- R95: what a GSTORE that took no fault left in its cell. -/
theorem exec_gstore_stored {s t : State} {addr : Int} (hs : s.Sound) (h : exec (.gstore addr) s = .next t)
    (hrun : t.status = .running) :
    t.hasCell (absolute addr) ∧ t.data.read (absolute addr).toNat = s.top 0 := by
  rcases exec_gstore_next h with ⟨k, rfl⟩ | ⟨_, hin, rfl⟩
  · simp only [takeFault_status, reduceCtorEq] at hrun
  · rw [State.top, sub_zero]
    exact ⟨hin, Memory.read_write_same _ hs.data_wf _ _⟩

/-- R95: a GLOAD of the address of an earlier GSTORE, with the data memory as that left it, pushes the stored word. -/
theorem exec_gload_of_gstore {s t u : State} {addr : Int} (hs : s.Sound) (hstore : exec (.gstore addr) s = .next t)
    (hrun : t.status = .running) (hu : u.Sound) (hparams : u.params = t.params) (hdata : u.data = t.data)
    (h : 1 ≤ u.poppable) (htop : u.top 0 = addr) : ∃ v, exec .gload u = .next v ∧ v.top 0 = s.top 0 := by
  obtain ⟨hin, hread⟩ := exec_gstore_stored hs hstore hrun
  have hcell : u.hasCell (u.top 0) := by
    rw [State.hasCell, hparams, htop]
    exact hin
  obtain ⟨v, hload, _, hv, _, _⟩ := exec_gload_reads hu h hcell
  refine ⟨v, hload, ?_⟩
  rw [hv, htop, hdata]
  exact hread

/-- Settles O22: GSTORE is the data store at its immediate. -/
theorem gstoreWritesDataMemory : Obligations.GstoreWritesDataMemory := by
  unfold Obligations.GstoreWritesDataMemory
  exact ⟨fun _ _ => rfl, rfl, fun _ hs hcut => hs.step_of_cutsOff_pop_first hcut rfl,
    fun _ hs hcut => hs.step_of_cutsOff_pop_first_under hcut rfl,
    fun _ addr _ => (storesData_gstore addr).exec_under,
    fun _ addr => (storesData_gstore addr).exec_out,
    fun _ addr => (storesData_gstore addr).exec_writes,
    fun _ => rfl,
    fun _ _ _ _ hs _ => exec_gload_of_gstore hs⟩

/-- R98: at top level the frame-relative cell of STORE is the cell GSTORE names. -/
theorem exec_store_top_level {s : State} (h : s.fp = 0) (k : Int) : exec (.store k) s = exec (.gstore k) s := by
  have haddress : frameUp s k = absolute k := by rw [frameUp, h, zero_add, absolute]
  exact (storesData_store k).exec_eq (storesData_gstore k) haddress

/-- Settles O25: STORE is the data store at fp + offset. -/
theorem storeWritesDataMemoryNotTheStack : Obligations.StoreWritesDataMemoryNotTheStack := by
  unfold Obligations.StoreWritesDataMemoryNotTheStack
  exact ⟨fun _ _ => rfl, rfl, fun _ hs hcut => hs.step_of_cutsOff_pop_first hcut rfl,
    fun _ hs hcut => hs.step_of_cutsOff_pop_first_under hcut rfl,
    fun _ offset _ => (storesData_store offset).exec_under,
    fun _ offset => (storesData_store offset).exec_out,
    fun _ offset => (storesData_store offset).exec_writes,
    fun _ _ => rfl,
    fun _ k h => exec_store_top_level h k⟩

/-! ### LOAD and LDARG -/

/-- R96, R97: the instruction reads the stack slot `index s` of the state before, and pushes the word. -/
def PushesSlot (i : Instr) (index : State → Int) : Prop :=
  ∀ s : State, exec i s = commit s (stackRead (index s) (fetched 2 s) >>= fun v => push v (fetched 2 s))

theorem pushesSlot_load (offset : Int) : PushesSlot (.load offset) (frameUp · offset) := fun _ => rfl
theorem pushesSlot_ldarg (offset : Int) : PushesSlot (.ldarg offset) (frameArg · offset) := fun _ => rfl

/-- R49: a read outside [0, sp]. -/
theorem PushesSlot.exec_out {i : Instr} {index : State → Int} (hi : PushesSlot i index) {s : State}
    (hout : index s < 0 ∨ s.sp < index s) : exec i s = .next (FaultedFrom .invalidMemoryAddress s) := by
  have hunread : ¬(0 ≤ index s ∧ index s ≤ s.sp) := by omega
  rw [hi s, stackRead_out (s := fetched 2 s) hunread, error_bind, commit_raised, takeFault_eq_faultedFrom]

/-- R49: with the slot occupied, the instruction is the CONST of the word the slot holds. -/
theorem PushesSlot.exec_eq_const {i : Instr} {index : State → Int} (hi : PushesSlot i index) {s : State}
    (hs : s.Sound) (hge : 0 ≤ index s) (hle : index s ≤ s.sp) :
    exec i s = exec (.const (s.stack.read (index s).toNat)) s := by
  have hread := (stackRead_eq_ok (s := fetched 2 s)).mpr ⟨⟨hge, hle⟩, ⟨hge, hle.trans_lt hs.sp_lt⟩, rfl⟩
  rw [hi s, hread, ok_bind, exec_const, fetched_stack]

/-- R47: the read comes before the push, which then finds no free slot. -/
theorem PushesSlot.exec_full {i : Instr} {index : State → Int} (hi : PushesSlot i index) {s : State}
    (hs : s.Sound) (hge : 0 ≤ index s) (hle : index s ≤ s.sp) (h : s.sp = s.params.stackCapacity - 1) :
    exec i s = .next (FaultedFrom .stackOverflow s) := by
  rw [hi.exec_eq_const hs hge hle, exec_const_full _ h]

theorem PushesSlot.exec_pushes {i : Instr} {index : State → Int} (hi : PushesSlot i index) {s : State}
    (hs : s.Sound) (hge : 0 ≤ index s) (hle : index s ≤ s.sp) (h : s.sp < s.params.stackCapacity - 1) :
    ∃ t, exec i s = .next t ∧ Moves s t (s.pc + 2) (s.sp + 1) ∧ t.top 0 = s.stack.read (index s).toNat ∧
      StackSameBut (s.sp + 1) s t ∧ DataSame s t := by
  rw [hi.exec_eq_const hs hge hle]
  exact exec_const_pushes hs _ h

/-- R96, R97: two pushes of one slot have the same outcome. -/
theorem PushesSlot.exec_eq {i j : Instr} {a b : State → Int} (hi : PushesSlot i a) (hj : PushesSlot j b) {s : State}
    (h : a s = b s) : exec i s = exec j s := by
  rw [hi s, hj s, h]

/-- R96: LOAD -3-k and LDARG k read the same slot. -/
theorem exec_load_eq_ldarg (s : State) (k : Int) : exec (.load (-3 - k)) s = exec (.ldarg k) s := by
  have hindex : frameUp s (-3 - k) = frameArg s k := by
    rw [frameUp, frameArg]
    omega
  exact (pushesSlot_load _).exec_eq (pushesSlot_ldarg k) hindex

/-- Settles O23: LOAD pushes the slot at fp + offset. -/
theorem loadPushesAFrameRelativeSlot : Obligations.LoadPushesAFrameRelativeSlot := by
  unfold Obligations.LoadPushesAFrameRelativeSlot
  exact ⟨fun _ _ => rfl, rfl, fun _ hs hcut => hs.step_of_cutsOff_fetch_first hcut rfl,
    fun _ offset _ => (pushesSlot_load offset).exec_out,
    fun _ offset => (pushesSlot_load offset).exec_full,
    fun _ offset => (pushesSlot_load offset).exec_pushes,
    exec_load_eq_ldarg⟩

/-- Settles O24: LDARG pushes the slot at fp - 3 - offset. -/
theorem ldargPushesAnArgumentSlot : Obligations.LdargPushesAnArgumentSlot := by
  unfold Obligations.LdargPushesAnArgumentSlot
  exact ⟨fun _ _ => rfl, rfl, fun _ hs hcut => hs.step_of_cutsOff_fetch_first hcut rfl,
    fun _ offset _ => (pushesSlot_ldarg offset).exec_out,
    fun _ offset => (pushesSlot_ldarg offset).exec_full,
    fun _ offset => (pushesSlot_ldarg offset).exec_pushes⟩

end Sys2Proof.Machine
end

section
/-! PROOF. CALL and RET (spec 43_call_return.md): the faults each can take, in order, and the state each commits. -/

namespace Sys2Proof.Machine

/-! ### CALL -/

/-- R47: a push from a stack pointer within its bounds finds the next slot or raises StackOverflow. -/
theorem push_cases {s : State} (v : Int) (hge : -1 ≤ s.sp) :
    push v s = .ok { s with sp := s.sp + 1, stack := s.stack.write (s.sp + 1).toNat v } ∨
      push v s = .error (.raised .stackOverflow) := by
  by_cases hfree : s.sp + 1 < s.params.stackCapacity
  · exact .inl (push_eq_ok.mpr ⟨⟨by omega, hfree⟩, rfl⟩)
  · exact .inr (push_full v (not_lt.mp hfree))

/-- R103: with fewer than three free slots the frame does not fit, whichever of its pushes meets the end. -/
theorem pushFrame_full {s : State} (argc : Int) (hge : -1 ≤ s.sp) (hfull : s.params.stackCapacity ≤ s.sp + 3) :
    pushFrame argc s = .error (.raised .stackOverflow) := by
  rw [pushFrame]
  rcases push_cases argc hge with hargc | hargc
  case inr => rw [hargc, error_bind]
  rw [hargc, ok_bind]
  rcases push_cases (s := { s with sp := s.sp + 1, stack := s.stack.write (s.sp + 1).toNat argc }) s.fp
    (show -1 ≤ s.sp + 1 by omega) with hfp | hfp
  case inr => rw [hfp, error_bind]
  have hlast : (s.params.stackCapacity : Int) ≤ s.sp + 1 + 1 + 1 := by omega
  rw [hfp, ok_bind, push_full _ hlast, error_bind]

/-- R102: ArgcOK asks for no more arguments than the caller may pop, and the fetch does not matter to it. -/
theorem argcOk_fetched_iff {n : Nat} {argc : Int} {s : State} :
    argcOk argc (fetched n s) ↔ 0 ≤ argc ∧ argc ≤ s.poppable := Iff.rfl

/-- R103: CALL checks its argument count, pushes its frame and goes to its target, in that order. -/
theorem exec_call (addr argc : Int) (s : State) :
    exec (.call addr argc) s = commit s (require (argcOk argc (fetched 3 s)) .stackUnderflow >>= fun _ =>
      pushFrame argc (fetched 3 s) >>= transfer addr) := rfl

/-- R102, R103: the argument check comes first. -/
theorem exec_call_bad_argc {s : State} {addr argc : Int} (h : argc < 0 ∨ s.poppable < argc) :
    exec (.call addr argc) s = .next (FaultedFrom .stackUnderflow s) := by
  have hbad : ¬argcOk argc (fetched 3 s) := by
    rw [argcOk_fetched_iff]
    omega
  rw [exec_call, require_false _ hbad, error_bind, commit_raised, takeFault_eq_faultedFrom]

/-- R103: past the argument check the pushes and the transfer are left. -/
theorem exec_call_checked {s : State} {argc : Int} (addr : Int) (hge : 0 ≤ argc) (hle : argc ≤ s.poppable) :
    exec (.call addr argc) s = commit s (pushFrame argc (fetched 3 s) >>= transfer addr) := by
  rw [exec_call, require_true _ (argcOk_fetched_iff.mpr ⟨hge, hle⟩), ok_bind]

theorem exec_call_full {s : State} (hs : s.Sound) {argc : Int} (addr : Int) (hge : 0 ≤ argc)
    (hle : argc ≤ s.poppable) (hfull : s.params.stackCapacity - 1 < s.sp + 3) :
    exec (.call addr argc) s = .next (FaultedFrom .stackOverflow s) := by
  have hover := pushFrame_full (s := fetched 3 s) argc hs.sp_ge (Int.sub_one_lt_iff.mp hfull)
  rw [exec_call_checked addr hge hle, hover, error_bind, commit_raised, takeFault_eq_faultedFrom]

/-- R100, R103: the state with a CALL's frame pushed and pc at `pc`. The return address is past the CALL's words. -/
abbrev State.withFrame (s : State) (argc pc : Int) : State :=
  { s with
    pc := pc
    sp := s.sp + 3
    fp := s.sp + 3
    stack := ((s.stack.write (s.sp + 1).toNat argc).write (s.sp + 2).toNat s.fp).write (s.sp + 3).toNat (s.pc + 3) }

/-- R103: with three free slots the frame is pushed. -/
theorem State.Sound.pushFrame_fetched {s : State} (hs : s.Sound) (argc : Int)
    (hroom : s.sp + 3 ≤ s.params.stackCapacity - 1) :
    pushFrame argc (fetched 3 s) = .ok (s.withFrame argc (s.pc + 3)) :=
  pushFrame_eq_ok.mpr ⟨neg_le_iff_add_nonneg.mp hs.sp_ge, Int.le_sub_one_iff.mp hroom, rfl⟩

/-- R87, R103: the target is checked once the frame is pushed. -/
theorem exec_call_out {s : State} (hs : s.Sound) {addr argc : Int} (hge : 0 ≤ argc) (hle : argc ≤ s.poppable)
    (hroom : s.sp + 3 ≤ s.params.stackCapacity - 1) (hout : ¬s.inCode addr) :
    exec (.call addr argc) s = .next (FaultedFrom .invalidCodeAddress s) := by
  rw [exec_call_checked addr hge hle, hs.pushFrame_fetched argc hroom, ok_bind,
    transfer_out (s := s.withFrame argc (s.pc + 3)) hout, commit_raised, takeFault_eq_faultedFrom]

theorem exec_call_enters {s : State} (hs : s.Sound) {addr argc : Int} (hge : 0 ≤ argc) (hle : argc ≤ s.poppable)
    (hroom : s.sp + 3 ≤ s.params.stackCapacity - 1) (hin : s.inCode addr) :
    exec (.call addr argc) s = .next (s.withFrame argc addr) := by
  have htransfer := (transfer_eq_ok (s := s.withFrame argc (s.pc + 3))).mpr ⟨hin, rfl⟩
  rw [exec_call_checked addr hge hle, hs.pushFrame_fetched argc hroom, ok_bind, htransfer, commit_ok]

/-- R100: the frame words, the return address on top. -/
theorem State.Sound.withFrame_top {s : State} (hs : s.Sound) (argc pc : Int) :
    (s.withFrame argc pc).top 2 = argc ∧ (s.withFrame argc pc).top 1 = s.fp ∧
      (s.withFrame argc pc).top 0 = s.pc + 3 := by
  have hge := hs.sp_ge
  have hargc : s.sp + 3 - 2 = s.sp + 1 := by omega
  have hfp : s.sp + 3 - 1 = s.sp + 2 := by omega
  have hwf := Memory.write_wf _ hs.stack_wf (s.sp + 1).toNat argc
  simp only [State.top, hargc, hfp, sub_zero]
  refine ⟨?_, ?_, Memory.read_write_same _ (Memory.write_wf _ hwf _ _) _ _⟩
  · rw [Memory.read_write_other _ _ _ _ (by omega), Memory.read_write_other _ _ _ _ (by omega),
      Memory.read_write_same _ hs.stack_wf]
  · rw [Memory.read_write_other _ _ _ _ (by omega), Memory.read_write_same _ hwf]

/-- R103: a CALL writes the three slots of its frame and no other. -/
theorem State.Sound.withFrame_stack_other {s : State} (hs : s.Sound) (argc pc : Int) {j : Nat}
    (hj : (j : Int) ≤ s.sp ∨ s.sp + 3 < j) : (s.withFrame argc pc).stack.read j = s.stack.read j := by
  have hge := hs.sp_ge
  rw [Memory.read_write_other _ _ _ _ (by omega), Memory.read_write_other _ _ _ _ (by omega),
    Memory.read_write_other _ _ _ _ (by omega)]

/-- Settles O26: the immediate fetches come first, then ArgcOK, the three pushes and the target check, and a CALL that
passes them all leaves its frame on top of the caller's stack. -/
theorem callPushesAFrameAndEntersTheCallee : Obligations.CallPushesAFrameAndEntersTheCallee := by
  unfold Obligations.CallPushesAFrameAndEntersTheCallee
  refine ⟨fun _ _ _ => rfl, rfl, fun _ hs hcut => hs.step_of_cutsOff_fetch_first hcut rfl,
    fun _ _ _ _ => exec_call_bad_argc, fun _ addr _ hs => exec_call_full hs addr, fun _ _ _ hs => exec_call_out hs,
    fun s addr argc hs hge hle hroom hin => ?_⟩
  obtain ⟨hargc, hfp, hpc⟩ := hs.withFrame_top argc addr
  exact ⟨_, exec_call_enters hs hge hle hroom hin, rfl, rfl, rfl, hargc, hfp, hpc,
    fun _ => hs.withFrame_stack_other argc addr, fun _ => rfl, rfl, rfl, rfl⟩

/-! ### RET -/

/-- R100, R105: the words RET reads at fp, fp - 1 and fp - 2. -/
abbrev State.frame (s : State) : Frame where
  retPc := s.stack.read s.fp.toNat
  oldFp := s.stack.read (s.fp - 1).toNat
  argc := s.stack.read (s.fp - 2).toNat

/-- R105: the saved argc is not negative and does not reach below the caller's floor. -/
abbrev Frame.FitsBelow (f : Frame) (fp : Int) : Prop := 0 ≤ f.argc ∧ floorOf f.oldFp - 1 ≤ fp - 3 - f.argc

/-- R105: what RET does with the frame it read at `fp` and the return value it popped: the check of the frame, the
transfer, and the push of the return value onto the caller's stack. -/
def leaveFrame (fp : Int) (f : Frame) (rval : Int) (s : State) : Except Stop State := do
  require (f.FitsBelow fp) .stackUnderflow
  let s1 ← transfer f.retPc s
  push rval { s1 with sp := fp - 3 - f.argc, fp := f.oldFp }

/-- R105: RET pops the return value, refuses the top level, reads the frame and leaves it. -/
theorem popsFirst_ret :
    PopsFirst .ret 1 fun s p => require (2 ≤ s.fp) .stackUnderflow >>= fun _ =>
      readFrame (fetched 1 s) >>= fun f => leaveFrame s.fp f p.1 p.2 := fun _ => rfl

/-- R105: at top level there is no frame to return from, whatever there is to pop. -/
theorem exec_ret_top_level {s : State} (hs : s.Sound) (hfp : s.fp = 0) :
    exec .ret s = .next (FaultedFrom .stackUnderflow s) := by
  by_cases h : 1 ≤ s.poppable
  · have hno : ¬2 ≤ s.fp := by omega
    rw [popsFirst_ret.exec_popped hs h, require_false _ hno, error_bind, commit_raised, takeFault_eq_faultedFrom]
  · exact popsFirst_ret.exec_under (not_le.mp h)

/-- R105: in a callee the three frame words are below the floor, so their slots exist. -/
theorem State.Sound.readFrame_fetched {s : State} (hs : s.Sound) (n : Nat) (hfp : 2 ≤ s.fp) :
    readFrame (fetched n s) = .ok s.frame := by
  have hfloor := hs.floor_le
  have hlt := hs.sp_lt
  rw [floorOf_of_ne (by omega)] at hfloor
  exact readFrame_eq_ok.mpr ⟨show s.hasSlot s.fp by omega, show s.hasSlot (s.fp - 1) by omega,
    show s.hasSlot (s.fp - 2) by omega, rfl⟩

/-- R105: in a callee with a value to pop, RET leaves the active frame with the top as its return value. -/
theorem exec_ret_callee {s : State} (hs : s.Sound) (h : 1 ≤ s.poppable) (hfp : s.fp ≠ 0) :
    exec .ret s = commit s (leaveFrame s.fp s.frame (s.top 0) (s.movedTo (s.pc + 1) (s.sp - 1))) := by
  have hcallee : 2 ≤ s.fp := hs.fp_legal.resolve_left hfp
  rw [popsFirst_ret.exec_popped hs h, require_true _ hcallee, ok_bind, hs.readFrame_fetched 1 hcallee, ok_bind,
    Nat.cast_one]

/-- R105: a saved argc that is negative or reaches below the caller's floor. -/
theorem exec_ret_bad_argc {s : State} (hs : s.Sound) (h : 1 ≤ s.poppable) (hfp : s.fp ≠ 0)
    (hbad : s.frame.argc < 0 ∨ s.fp - 3 - s.frame.argc < floorOf s.frame.oldFp - 1) :
    exec .ret s = .next (FaultedFrom .stackUnderflow s) := by
  have hfits : ¬s.frame.FitsBelow s.fp := fun hf => hbad.elim (not_lt.mpr hf.1) (not_lt.mpr hf.2)
  rw [exec_ret_callee hs h hfp, leaveFrame, require_false _ hfits, error_bind, commit_raised,
    takeFault_eq_faultedFrom]

/-- R87, R105: the target of a frame that fits is checked before anything is unwound. -/
theorem exec_ret_out {s : State} (hs : s.Sound) (h : 1 ≤ s.poppable) (hfp : s.fp ≠ 0)
    (hfits : s.frame.FitsBelow s.fp) (hout : ¬s.inCode s.frame.retPc) :
    exec .ret s = .next (FaultedFrom .invalidCodeAddress s) := by
  rw [exec_ret_callee hs h hfp, leaveFrame, require_true _ hfits, ok_bind,
    transfer_out (s := s.movedTo (s.pc + 1) (s.sp - 1)) hout, error_bind, commit_raised, takeFault_eq_faultedFrom]

/-- R105: the state after the active frame is unwound: the return value stands where the first argument stood, or in
the slot of the saved argc if there was none. -/
abbrev State.unwound (s : State) : State :=
  { s with
    pc := s.frame.retPc
    sp := s.fp - 2 - s.frame.argc
    fp := s.frame.oldFp
    stack := s.stack.write (s.fp - 2 - s.frame.argc).toNat (s.top 0) }

theorem exec_ret_unwinds {s : State} (hs : s.Sound) (h : 1 ≤ s.poppable) (hfp : s.fp ≠ 0)
    (hfits : s.frame.FitsBelow s.fp) (hin : s.inCode s.frame.retPc) (hslot : s.hasSlot (s.fp - 2 - s.frame.argc)) :
    exec .ret s = .next s.unwound := by
  have htransfer := (transfer_eq_ok (s := s.movedTo (s.pc + 1) (s.sp - 1))).mpr ⟨hin, rfl⟩
  have hnext : s.fp - 3 - s.frame.argc + 1 = s.fp - 2 - s.frame.argc := by omega
  rw [exec_ret_callee hs h hfp, leaveFrame, require_true _ hfits, ok_bind, htransfer, ok_bind]
  refine congrArg (commit s) (push_eq_ok.mpr ⟨?_, ?_⟩)
  · simpa only [hnext] using hslot
  · simp only [hnext]

/-- R46, R108: the frame pointers of a chain have no floor below slot 0. -/
theorem Frames.floorOf_nonneg {n : Nat} {st : Memory} {fp : Int} (h : Frames n st fp) : 0 ≤ floorOf fp := by
  cases h with
  | top => exact floorOf_zero.ge
  | callee _ hcallable =>
    rw [floorOf_of_ne (by omega)]
    omega

/-- R38, R108: in a callee the invariant says of the active frame that it fits and that its caller's chain goes on. -/
theorem State.Inv.active_frame {s : State} (hinv : s.Inv) (hfp : s.fp ≠ 0) :
    s.frame.FitsBelow s.fp ∧ Frames s.codeSize s.stack s.frame.oldFp := by
  obtain ⟨_, hargc, hwithin, _, hcaller⟩ := (frames_iff.mp hinv.frames).resolve_left hfp
  exact ⟨⟨hargc, hwithin⟩, hcaller⟩

/-- R36, R105: the slot the return value goes to is at or above the caller's floor and below the active frame. -/
theorem State.Inv.hasSlot_retVal {s : State} (hinv : s.Inv) (hfp : s.fp ≠ 0) :
    s.hasSlot (s.fp - 2 - s.frame.argc) := by
  obtain ⟨⟨hargc, hwithin⟩, hcaller⟩ := hinv.active_frame hfp
  have hcallerFloor := hcaller.floorOf_nonneg
  have hfloor := hinv.sound.floor_le
  have hlt := hinv.sound.sp_lt
  rw [floorOf_of_ne hfp] at hfloor
  omega

/-- R105: unwinding leaves the return value on top and writes no other slot. -/
theorem State.Sound.unwound_stack {s : State} (hs : s.Sound) (hslot : s.hasSlot (s.fp - 2 - s.frame.argc)) :
    s.unwound.top 0 = s.top 0 ∧ StackSameBut (s.fp - 2 - s.frame.argc) s s.unwound := by
  have hge := hslot.1
  refine ⟨?_, fun j hj => Memory.read_write_other _ _ _ _ (by omega)⟩
  rw [State.top, sub_zero]
  exact Memory.read_write_same _ hs.stack_wf _ _

/-- Settles O28: RET pops, refuses the top level, reads and checks its frame, and then its target. A frame the
invariant vouches for passes the checks that are not on the target, and the last push finds its slot. -/
theorem retUnwindsOneFrame : Obligations.RetUnwindsOneFrame := by
  unfold Obligations.RetUnwindsOneFrame
  refine ⟨fun _ => rfl, rfl, fun _ _ => popsFirst_ret.exec_under, fun _ => exec_ret_top_level, ?_, ?_, ?_⟩
  · rintro s _ _ _ hs h hfp rfl rfl rfl hbad
    exact exec_ret_bad_argc hs h hfp hbad
  · rintro s _ _ _ hs h hfp rfl rfl rfl hge hfloor hout
    exact exec_ret_out hs h hfp ⟨hge, hfloor⟩ hout
  · rintro s _ _ _ hinv h hfp rfl rfl rfl hin
    obtain ⟨hfits, _⟩ := hinv.active_frame hfp
    have hslot := hinv.hasSlot_retVal hfp
    obtain ⟨htop, hstack⟩ := hinv.sound.unwound_stack hslot
    exact ⟨_, exec_ret_unwinds hinv.sound h hfp hfits hin hslot, rfl, rfl, rfl, htop, hstack, fun _ => rfl,
      rfl, rfl, rfl⟩

end Sys2Proof.Machine
end

section
/-! PROOF. Output, stack discard and halt (spec 44_stack_io_halt.md): the fault PRINT and POP can take, and the state
each of the three commits. -/

namespace Sys2Proof.Machine

/-- R113: one element more in OUT is one line more in the text. -/
theorem outputText_of_out_append {s t : State} {v : Int} (h : t.out = s.out ++ [v]) :
    t.outputText = s.outputText ++ renderWord v := by
  rw [State.outputText, State.outputText, h, List.map_append, String.join_append, List.map_singleton,
    String.join_cons, String.join_nil, String.append_empty]

/-- R112: PRINT appends the word it popped to OUT. -/
theorem popsFirst_print :
    PopsFirst .print 1 fun _ p => .ok { p.2 with out := p.2.out ++ [p.1] } := fun _ => rfl

/-- R114: POP keeps the state after its pop and drops the word. -/
theorem popsFirst_pop : PopsFirst .pop 1 fun _ p => .ok p.2 := fun _ => rfl

theorem exec_print_appends {s : State} (hs : s.Sound) (h : 1 ≤ s.poppable) :
    exec .print s = .next { s.movedTo (s.pc + 1) (s.sp - 1) with out := s.out ++ [s.top 0] } := by
  rw [popsFirst_print.exec_popped hs h, commit_ok, Nat.cast_one]

theorem exec_pop_discards {s : State} (hs : s.Sound) (h : 1 ≤ s.poppable) :
    exec .pop s = .next (s.movedTo (s.pc + 1) (s.sp - 1)) := by
  rw [popsFirst_pop.exec_popped hs h, commit_ok, Nat.cast_one]

theorem exec_halt (s : State) : exec .halt s = .next { s with pc := s.pc + 1, status := .halted } := rfl

/-- Settles O32: HALT checks nothing, so it commits in every state. -/
theorem haltEndsTheRun : Obligations.HaltEndsTheRun := by
  unfold Obligations.HaltEndsTheRun
  exact ⟨fun _ => rfl, rfl, exec_halt⟩

/-- Settles O31: POP is its pop alone, which writes no slot. -/
theorem popDiscardsTheTop : Obligations.PopDiscardsTheTop := by
  unfold Obligations.PopDiscardsTheTop
  exact ⟨fun _ => rfl, rfl, fun _ _ => popsFirst_pop.exec_under,
    fun s hs h => ⟨_, exec_pop_discards hs h, moves_movedTo s (s.pc + 1) (s.sp - 1)⟩⟩

/-- Settles O30: the pop comes first, so its fault emits nothing. With a value to pop, OUT gains the top word and the
text the line of that word. -/
theorem printAppendsTheTopToOut : Obligations.PrintAppendsTheTopToOut := by
  unfold Obligations.PrintAppendsTheTopToOut
  refine ⟨fun _ => rfl, rfl, fun _ _ => popsFirst_print.exec_under, fun s hs h => ?_⟩
  exact ⟨_, exec_print_appends hs h, rfl, rfl, rfl, rfl, rfl, rfl, fun _ => rfl, fun _ => rfl,
    outputText_of_out_append rfl⟩

end Sys2Proof.Machine
end

section
/-! PROOF. Precise faults (spec 60_exceptions.md R120, R121): no instruction commits a FAULTED status, so a state a
step faulted is the one `takeFault` made of the state before. -/

namespace Sys2Proof.Machine

theorem BinaryCommits.status_eq {f : Int → Int → Int} {s t : State} (h : BinaryCommits f s t) :
    t.status = s.status := by
  obtain ⟨_, _, _, rfl⟩ := h
  rfl

/-- R27, instruction by instruction: one that takes no fault leaves the status as it was, unless it is HALT. -/
theorem exec_next_status {i : Instr} {s t : State} (h : exec i s = .next t) :
    FaultOr s t (t.status = s.status ∨ i = .halt ∧ t.status = .halted) := by
  cases i with
  | const v => exact (exec_const_next h).imp_right fun ⟨_, ht⟩ => .inl (ht ▸ rfl)
  | add => exact (exec_add_next h).imp_right fun hc => .inl hc.status_eq
  | sub => exact (exec_sub_next h).imp_right fun hc => .inl hc.status_eq
  | mul => exact (exec_mul_next h).imp_right fun hc => .inl hc.status_eq
  | lt => exact (exec_lt_next h).imp_right fun hc => .inl hc.status_eq
  | eq => exact (exec_eq_next h).imp_right fun hc => .inl hc.status_eq
  | jmp a => exact (exec_jmp_next h).imp_right fun ⟨_, ht⟩ => .inl (ht ▸ rfl)
  | jmpt a =>
    refine (exec_jmpt_next h).imp_right ?_
    rintro ⟨_, ⟨_, _, rfl⟩ | ⟨_, rfl⟩⟩
    · exact .inl rfl
    · exact .inl rfl
  | jmpf a =>
    refine (exec_jmpf_next h).imp_right ?_
    rintro ⟨_, ⟨_, _, rfl⟩ | ⟨_, rfl⟩⟩
    · exact .inl rfl
    · exact .inl rfl
  | gload => exact (exec_gload_next h).imp_right fun ⟨_, _, ht⟩ => .inl (ht ▸ rfl)
  | gstore a => exact (exec_gstore_next h).imp_right fun ⟨_, _, ht⟩ => .inl (ht ▸ rfl)
  | load off => exact (exec_load_next h).imp_right fun ⟨_, _, ht⟩ => .inl (ht ▸ rfl)
  | ldarg off => exact (exec_ldarg_next h).imp_right fun ⟨_, _, ht⟩ => .inl (ht ▸ rfl)
  | store off => exact (exec_store_next h).imp_right fun ⟨_, _, ht⟩ => .inl (ht ▸ rfl)
  | call a n => exact (exec_call_next h).imp_right fun ⟨_, _, _, _, ht⟩ => .inl (ht ▸ rfl)
  | ret =>
    refine (exec_ret_next h).imp_right ?_
    rintro ⟨_, _, _, _, _, _, _, _, _, _, _, _, rfl⟩
    exact .inl rfl
  | print => exact (exec_print_next h).imp_right fun ⟨_, ht⟩ => .inl (ht ▸ rfl)
  | pop => exact (exec_pop_next h).imp_right fun ⟨_, ht⟩ => .inl (ht ▸ rfl)
  | halt =>
    refine (exec_halt_next h).imp_right ?_
    rintro rfl
    exact .inr ⟨rfl, rfl⟩

/-- R27: a step takes a fault, or goes on RUNNING, or executes the HALT at pc. -/
theorem step_next_status {s t : State} (h : step s = .next t) :
    FaultOr s t (t.status = .running ∨ fetchDecode s = .instr .halt ∧ t.status = .halted) := by
  obtain ⟨hrun, hfault | ⟨i, hdecode, hexec⟩⟩ := step_next h
  · exact .inl hfault
  · refine (exec_next_status hexec).imp_right ?_
    rintro (hkept | ⟨rfl, hhalted⟩)
    · exact .inl (hkept.trans hrun)
    · exact .inr ⟨hdecode, hhalted⟩

/-- R17, R120: the only way a step leads to FAULTED is taking a fault, which commits nothing else. -/
theorem eq_takeFault_of_step_faulted {s t : State} {k : FaultKind} {fpc : Int} (h : step s = .next t)
    (hfaulted : t.status = .faulted k fpc) : fpc = s.pc ∧ t = takeFault k s := by
  rcases step_next_status h with ⟨k', rfl⟩ | hrunning | ⟨_, hhalted⟩
  · obtain ⟨rfl, rfl⟩ := Status.faulted.inj ((takeFault_status k' s).symm.trans hfaulted)
    exact ⟨rfl, rfl⟩
  · cases hrunning.symm.trans hfaulted
  · cases hhalted.symm.trans hfaulted

/-- Settles O34: no status an instruction commits is FAULTED, so a step that ends FAULTED took a fault. -/
theorem faultsArePreciseAndRecordTheOpcodeAddress : Obligations.FaultsArePreciseAndRecordTheOpcodeAddress := by
  unfold Obligations.FaultsArePreciseAndRecordTheOpcodeAddress
  intro s t k fpc _ hstep hfaulted
  rw [← takeFault_eq_faultedFrom]
  exact eq_takeFault_of_step_faulted hstep hfaulted

end Sys2Proof.Machine
end

section
/-! PROOF. A fetch outside CODE (spec 20_memory.md R44, 70_reset_and_hazards.md R143): there is no word to decode, so
the step takes InvalidCodeAddress. -/

namespace Sys2Proof.Machine

/-- R44: the indices outside CODE are the negative ones and those from N up. -/
theorem State.not_inCode_iff {s : State} {t : Int} : ¬s.inCode t ↔ t < 0 ∨ (s.codeSize : Int) ≤ t := by
  rw [State.inCode, not_and_or, not_le, not_lt]

/-- R44: a pc outside CODE has no opcode word. -/
theorem fetchDecode_of_not_inCode {s : State} (h : ¬s.inCode s.pc) : fetchDecode s = .noOpcode := if_neg h

/-- R44, R120, R121: a failed opcode fetch records InvalidCodeAddress at the pc before and changes nothing else. -/
theorem step_of_noOpcode {s : State} (hrun : s.status = .running) (h : fetchDecode s = .noOpcode) :
    step s = .next (FaultedFrom .invalidCodeAddress s) := by
  have hstep : step s = execNoOpcode s := by simp only [step, hrun, h]
  rw [hstep, execNoOpcode, commit_raised, takeFault_eq_faultedFrom]

/-- R143: the step of a RUNNING engine whose pc is outside CODE takes InvalidCodeAddress. -/
theorem step_of_not_inCode {s : State} (hrun : s.status = .running) (h : ¬s.inCode s.pc) :
    step s = .next (FaultedFrom .invalidCodeAddress s) :=
  step_of_noOpcode hrun (fetchDecode_of_not_inCode h)

/-- Settles O7: a negative pc, or one from N up, is outside CODE. -/
theorem fetchOutsideCodeRaisesInvalidCodeAddress : Obligations.FetchOutsideCodeRaisesInvalidCodeAddress := by
  unfold Obligations.FetchOutsideCodeRaisesInvalidCodeAddress
  exact fun _ hrun hout => step_of_not_inCode hrun (State.not_inCode_iff.mpr hout)

end Sys2Proof.Machine
end

section
/-! PROOF. Construction (spec 70_reset_and_hazards.md R137, R138): when it fails, and the constructed state it gives
otherwise. -/

namespace Sys2Proof.Machine

section init
variable (om : OpcodeMap) (cap : Nat) {code : List Int} (entryPc : Int) {localsSize : Int} (W : Nat)

/-- R138: an empty CODE or a negative size gives no engine. -/
theorem init_fails (h : code = [] ∨ localsSize < 0) : init om cap code entryPc localsSize W = .error .initError :=
  if_pos (h.imp_left List.length_eq_zero_iff.mpr)

/-- R137: a CODE with words and a size that is not negative give the reset state of the parameters supplied. -/
theorem init_constructs (hcode : code ≠ []) (hsize : 0 ≤ localsSize) :
    init om cap code entryPc localsSize W = .ok (State.construct
      { wordBits := W, code, entryPc, stackCapacity := cap, dataSize := localsSize.toNat, opcodes := om }) :=
  if_neg (not_or.mpr ⟨hcode ∘ List.length_eq_zero_iff.mp, not_lt.mpr hsize⟩)

end init

/-- R138: construction does not check the entry pc, so one outside CODE faults at the first fetch. -/
theorem step_construct_of_not_inCode {p : Params} (h : ¬(State.construct p).inCode p.entryPc) :
    step (State.construct p) = .next (FaultedFrom .invalidCodeAddress (State.construct p)) :=
  step_of_not_inCode (construct_status p) h

/-- Settles O38: where `init` does not fail it answers a constructed state, whose fields and first fetch are those of
any constructed state. -/
theorem initBuildsTheResetState : Obligations.InitBuildsTheResetState := by
  unfold Obligations.InitBuildsTheResetState
  refine fun om cap code entryPc localsSize W =>
    ⟨init_fails om cap entryPc W, fun hcode hsize => ⟨_, init_constructs om cap entryPc W hcode hsize, ?_⟩⟩
  exact ⟨construct_pc _, construct_sp _, construct_fp _, construct_data_read _, construct_out _, construct_status _,
    rfl, rfl, Int.toNat_of_nonneg hsize, rfl, rfl, rfl, step_construct_of_not_inCode⟩

end Sys2Proof.Machine
end

section
/-! PROOF. The decoder and the encoder (spec 30_encoding.md): each undoes the other on the words of an instruction, and
both keep the width of a word. -/

namespace Sys2Proof

/-- R68: an instruction is well-formed when each of its immediates is a W-bit word. -/
theorem Instr.wf_iff {W : Nat} {i : Instr} : i.wf W = true ↔ ∀ w ∈ i.immediates, IsWord W w := by
  cases i
  case add | sub | mul | lt | eq | gload | ret | print | pop | halt => simp [wf, immediates]
  case const | jmp | jmpt | jmpf | gstore | load | ldarg | store =>
    simp only [wf, immediates, decide_eq_true_eq, List.forall_mem_singleton]
  case call => simp [wf, immediates]

/-- R64, R73: the immediates of an instruction, whatever follows them, are read back as that instruction. -/
theorem readImmediates_immediates (i : Instr) (rest : List Int) :
    readImmediates i.mnemonic (i.immediates ++ rest) = .instr i := by
  cases i <;> rfl

/-- R64: an instruction's length in words is the length of its encoding. -/
theorem encode_length (om : OpcodeMap) (i : Instr) : (encode om i).length = i.words := by
  cases i <;> rfl

/-- R64: an instruction has an opcode word. -/
theorem Instr.words_ne_zero (i : Instr) : i.words ≠ 0 := by
  rw [← encode_length defaultOpcodes]
  exact Nat.succ_ne_zero _

/-- R69: the decoder gives back the instruction whose words it reads. -/
theorem decode_encode {om : OpcodeMap} (hom : om.Injective) (i : Instr) (rest : List Int) :
    decode om (encode om i ++ rest) = .instr i := by
  simp only [encode, List.cons_append, decode, OpcodeMap.lookup_value hom, readImmediates_immediates]

theorem encode_words {W : Nat} {om : OpcodeMap} (hom : ∀ m, IsWord W (om.value m)) {i : Instr} (hi : i.wf W = true) :
    ∀ w ∈ encode om i, IsWord W w :=
  List.forall_mem_cons.mpr ⟨hom _, Instr.wf_iff.mp hi⟩

/-- Settles O1: the opcode word selects the mnemonic, whose format reads the immediates back; and every word of an
encoding is an opcode value or an immediate. -/
theorem decodeOfEncodeIsTheInstruction : Obligations.DecodeOfEncodeIsTheInstruction := by
  unfold Obligations.DecodeOfEncodeIsTheInstruction
  exact ⟨fun _ => decode_encode, fun _ _ hom _ => encode_words hom⟩

/-- The instruction is one of the mnemonic, and the words begin with its immediates. -/
def Instr.ReadFrom (i : Instr) (m : Mnemonic) (ws : List Int) : Prop :=
  i.mnemonic = m ∧ ∃ rest, ws = i.immediates ++ rest

theorem readFrom_of_readF0 {m : Mnemonic} {j i : Instr} {ws : List Int} (h : readF0 j ws = .instr i)
    (hm : j.mnemonic = m) (hj : j.immediates = []) : i.ReadFrom m ws := by
  cases h
  exact ⟨hm, ws, by rw [hj, List.nil_append]⟩

theorem readFrom_of_readF1 {m : Mnemonic} {f : Int → Instr} {i : Instr} {ws : List Int} (h : readF1 m f ws = .instr i)
    (hm : ∀ a, (f a).mnemonic = m) (hf : ∀ a, (f a).immediates = [a]) : i.ReadFrom m ws := by
  match ws, h with
  | a :: rest, h =>
    cases h
    exact ⟨hm a, rest, by rw [hf, List.singleton_append]⟩

theorem readFrom_of_readF2 {m : Mnemonic} {f : Int → Int → Instr} {i : Instr} {ws : List Int}
    (h : readF2 m f ws = .instr i) (hm : ∀ a b, (f a b).mnemonic = m)
    (hf : ∀ a b, (f a b).immediates = [a, b]) : i.ReadFrom m ws := by
  match ws, h with
  | a :: b :: rest, h =>
    cases h
    exact ⟨hm a b, rest, by rw [hf, List.cons_append, List.singleton_append]⟩

/-- R64, R73: what is read for a mnemonic is one of its instructions, with the words read as its immediates. -/
theorem readFrom_of_readImmediates {m : Mnemonic} {ws : List Int} {i : Instr} (h : readImmediates m ws = .instr i) :
    i.ReadFrom m ws := by
  cases m
  case add | sub | mul | lt | eq | gload | ret | print | pop | halt => exact readFrom_of_readF0 h rfl rfl
  case const | jmp | jmpt | jmpf | gstore | load | ldarg | store =>
    exact readFrom_of_readF1 h (fun _ => rfl) fun _ => rfl
  case call => exact readFrom_of_readF2 h (fun _ _ => rfl) fun _ _ => rfl

/-- R64, R69: words that decode to an instruction begin with its encoding, under any opcode map. -/
theorem encode_of_decode {om : OpcodeMap} {ws : List Int} {i : Instr} (h : decode om ws = .instr i) :
    ∃ rest, ws = encode om i ++ rest := by
  match ws, h with
  | op :: rest, h =>
    cases hm : om.lookup op with
    | none => simp only [decode, hm, reduceCtorEq] at h
    | some m =>
      simp only [decode, hm] at h
      obtain ⟨rfl, rest', rfl⟩ := readFrom_of_readImmediates h
      exact ⟨rest', by rw [encode, List.cons_append, OpcodeMap.lookup_sound hm]⟩

/-- R69: under an injective map the words that decode to an instruction are those that begin with its encoding. -/
theorem decode_eq_instr_iff {om : OpcodeMap} (hom : om.Injective) {ws : List Int} {i : Instr} :
    decode om ws = .instr i ↔ ∃ rest, ws = encode om i ++ rest := by
  constructor
  · exact encode_of_decode
  · rintro ⟨rest, rfl⟩
    exact decode_encode hom i rest

/-- R68: decoded from W-bit words, an instruction is well-formed. -/
theorem wf_of_decode {W : Nat} {om : OpcodeMap} {ws : List Int} {i : Instr} (h : decode om ws = .instr i)
    (hws : ∀ w ∈ ws, IsWord W w) : i.wf W = true := by
  obtain ⟨rest, rfl⟩ := encode_of_decode h
  exact Instr.wf_iff.mpr fun w hw => hws w (List.mem_append_left rest (List.mem_cons_of_mem _ hw))

/-- Settles O2: the words after the opcode word are read as the immediates of an instruction of its mnemonic. -/
theorem decodedWordsBeginWithTheEncoding : Obligations.DecodedWordsBeginWithTheEncoding := by
  unfold Obligations.DecodedWordsBeginWithTheEncoding
  exact fun _ _ _ h => ⟨encode_of_decode h, fun _ => wf_of_decode h⟩

/-- Settles O4: each of the eight word lists is read by the decoder's own rules. -/
theorem sampleWordsDecode : Obligations.SampleWordsDecode := by
  unfold Obligations.SampleWordsDecode
  decide

end Sys2Proof
end

section
/-! PROOF. The fetch (spec 20_memory.md R44): the words at pc, read one by one, are the ones the decoder reads. -/

namespace Sys2Proof.Machine

/-- R44, R69: the decode at pc is an instruction when pc is in CODE and the words from there on decode to it. -/
theorem fetchDecode_eq_instr {s : State} {i : Instr} :
    fetchDecode s = .instr i ↔ s.inCode s.pc ∧ decode s.params.opcodes (s.params.code.drop s.pc.toNat) = .instr i := by
  by_cases h : s.inCode s.pc
  · rw [fetchDecode, if_pos h, and_iff_right h]
  · rw [fetchDecode, if_neg h]
    exact iff_of_false nofun fun hin => h hin.1

/-- R24, R44: CODE holds every word of the instruction decoded at pc, so pc stays within [0, N] past them. -/
theorem within_code_of_fetchDecode {s : State} {i : Instr} (h : fetchDecode s = .instr i) :
    0 ≤ s.pc ∧ s.pc + i.words ≤ s.codeSize := by
  obtain ⟨⟨hge, hlt⟩, hdecode⟩ := fetchDecode_eq_instr.mp h
  obtain ⟨rest, hws⟩ := encode_of_decode hdecode
  have hlen : (encode s.params.opcodes i).length = i.words := encode_length _ i
  have htotal := congrArg List.length hws
  rw [List.length_drop, List.length_append, hlen] at htotal
  have hsize : s.codeSize = s.params.code.length := rfl
  omega

/-- R68: the instruction at pc of a CODE of W-bit words is well-formed. -/
theorem wf_of_fetchDecode {s : State} {i : Instr} (hs : s.params.InRange) (h : fetchDecode s = .instr i) :
    i.wf s.params.wordBits = true := by
  obtain ⟨_, _, _, _, _, _, _, hcode⟩ := hs
  exact wf_of_decode (fetchDecode_eq_instr.mp h).2 fun w hw => hcode w (List.mem_of_mem_drop hw)

/-- R69: under an injective map an instruction is decoded at pc exactly when its words stand there. -/
theorem fetchDecode_eq_instr_iff_words {s : State} {i : Instr} (hom : s.params.opcodes.Injective) :
    fetchDecode s = .instr i ↔
      0 ≤ s.pc ∧ ∃ rest, s.params.code.drop s.pc.toNat = encode s.params.opcodes i ++ rest := by
  rw [fetchDecode_eq_instr, decode_eq_instr_iff hom]
  refine and_congr_left fun ⟨rest, hws⟩ => and_iff_left_of_imp fun hge => ?_
  have hne : s.params.code.drop s.pc.toNat ≠ [] := by
    rw [hws]
    exact List.cons_ne_nil _ _
  exact (Int.toNat_lt hge).mp (not_le.mp (mt List.drop_eq_nil_of_le hne))

/-- R44: FetchCode answers the first of the words from pc on. -/
theorem fetchCode_eq_ok_iff {s t : State} {w : Int} (hpc : 0 ≤ s.pc) :
    fetchCode s = .ok (w, t) ↔
      s.params.code.drop s.pc.toNat = w :: s.params.code.drop (s.pc.toNat + 1) ∧ t = { s with pc := s.pc + 1 } := by
  rw [fetchCode_eq_ok, ← and_assoc]
  refine and_congr_left fun _ => ?_
  by_cases hlt : s.pc.toNat < s.params.code.length
  · have hin : s.inCode s.pc := ⟨hpc, (Int.toNat_lt hpc).mp hlt⟩
    rw [and_iff_right hin, List.drop_eq_getElem_cons hlt, List.cons.injEq, and_iff_left rfl,
      List.getD_eq_getElem _ _ hlt, eq_comm]
  · have hout : ¬s.inCode s.pc := fun hin => hlt ((Int.toNat_lt hpc).mpr hin.2)
    rw [List.drop_eq_nil_of_le (not_lt.mp hlt)]
    exact iff_of_false (fun h => hout h.1) nofun

/-- R44: FetchCode run `n` times answers the first `n` of the words from pc on, and only moves pc past them. -/
theorem fetchWords_eq_ok_iff {n : Nat} {s t : State} {ws : List Int} (hpc : 0 ≤ s.pc) :
    fetchWords n s = .ok (ws, t) ↔
      (∃ rest, s.params.code.drop s.pc.toNat = ws ++ rest) ∧ ws.length = n ∧ t = { s with pc := s.pc + n } := by
  induction n generalizing s t ws with
  | zero =>
    simp only [fetchWords, Except.ok.injEq, Prod.mk.injEq, List.length_eq_zero_iff, Nat.cast_zero, add_zero]
    constructor
    · rintro ⟨rfl, rfl⟩
      exact ⟨⟨_, rfl⟩, rfl, rfl⟩
    · rintro ⟨_, rfl, rfl⟩
      exact ⟨rfl, rfl⟩
  | succ n ih =>
    have hnext : (s.pc + 1).toNat = s.pc.toNat + 1 := by omega
    have hpast : s.pc + 1 + n = s.pc + (n + 1 : Nat) := by omega
    have hrest (ws' : List Int) (u : State) := ih (s := { s with pc := s.pc + 1 }) (ws := ws') (t := u)
      (show 0 ≤ s.pc + 1 by omega)
    simp only [hnext, hpast] at hrest
    simp only [fetchWords, bind_eq_ok, Prod.exists, fetchCode_eq_ok_iff hpc, pure_eq_ok, Except.ok.injEq,
      Prod.mk.injEq]
    constructor
    · rintro ⟨w, _, ⟨hw, rfl⟩, ws', _, hws', rfl, rfl⟩
      obtain ⟨⟨rest, hdrop⟩, rfl, rfl⟩ := (hrest _ _).mp hws'
      exact ⟨⟨rest, by rw [hw, hdrop, List.cons_append]⟩, rfl, rfl⟩
    · rintro ⟨⟨rest, hdrop⟩, hlen, rfl⟩
      obtain ⟨w, ws', rfl⟩ := List.exists_cons_of_length_eq_add_one hlen
      have htail : s.params.code.drop (s.pc.toNat + 1) = ws' ++ rest := by
        rw [← List.tail_drop, hdrop, List.cons_append, List.tail_cons]
      exact ⟨w, _, ⟨by rw [hdrop, htail, List.cons_append], rfl⟩, ws', _,
        (hrest _ _).mpr ⟨⟨rest, htail⟩, Nat.succ.inj hlen, rfl⟩, rfl, rfl⟩

/-- R44: a fetch of one word or more that succeeds began inside CODE. -/
theorem pc_nonneg_of_fetchWords {n : Nat} {s : State} {r : List Int × State} (hn : n ≠ 0)
    (h : fetchWords n s = .ok r) : 0 ≤ s.pc := by
  obtain ⟨k, rfl⟩ := Nat.exists_eq_succ_of_ne_zero hn
  obtain ⟨⟨w, t⟩, hfetch, _⟩ := (bind_eq_ok _ _ _).mp h
  exact (fetchCode_eq_ok.mp hfetch).1.1

/-- Settles O5: both sides say that the words from pc on begin with the encoding. -/
theorem decodeAtPcAgreesWithFetchCode : Obligations.DecodeAtPcAgreesWithFetchCode := by
  unfold Obligations.DecodeAtPcAgreesWithFetchCode
  intro s i hom
  rw [fetchDecode_eq_instr_iff_words hom]
  constructor
  · rintro ⟨hpc, hwords⟩
    exact (fetchWords_eq_ok_iff hpc).mpr ⟨hwords, encode_length _ i, rfl⟩
  · intro h
    have hpc := pc_nonneg_of_fetchWords i.words_ne_zero h
    exact ⟨hpc, ((fetchWords_eq_ok_iff hpc).mp h).1⟩

theorem step_of_instr {s : State} {i : Instr} (hrun : s.status = .running) (h : fetchDecode s = .instr i) :
    step s = exec i s := by
  simp only [step, hrun, h]

/-- R69: the words of an instruction that stand at pc are decoded as that instruction. -/
theorem State.Holds.fetchDecode {s : State} {i : Instr} (hom : s.params.opcodes.Injective) (h : s.Holds i) :
    fetchDecode s = .instr i :=
  (fetchDecode_eq_instr_iff_words hom).mpr h.2

/-- Settles O6: a step of a RUNNING engine is the arm of the decode at pc. -/
theorem stepExecutesTheInstructionAtPc : Obligations.StepExecutesTheInstructionAtPc := by
  unfold Obligations.StepExecutesTheInstructionAtPc
  exact ⟨fun _ _ => step_of_instr, fun _ _ hom h => step_of_instr h.1 (h.fetchDecode hom)⟩

/-- R95, R98, R119: the two mnemonics that pop before their immediate fetch. -/
theorem popsBeforeImmediate_iff {m : Mnemonic} : popsBeforeImmediate m = true ↔ m = .gstore ∨ m = .store := by
  cases m <;> decide

/-- Settles O8: a mnemonic that fetches first takes the fetch's fault, and one that pops first takes its pop's where
there is nothing to pop. -/
theorem cutOffInstructionFaultsInItsOwnOrder : Obligations.CutOffInstructionFaultsInItsOwnOrder := by
  unfold Obligations.CutOffInstructionFaultsInItsOwnOrder
  intro s m hs hcut
  simp only [← popsBeforeImmediate_iff]
  by_cases hm : popsBeforeImmediate m = true
  · by_cases h : s.poppable < 1
    · rw [if_pos ⟨hm, h⟩, hs.step_of_cutsOff_pop_first_under hcut hm h]
    · rw [if_neg fun hboth => h hboth.2, hs.step_of_cutsOff_pop_first hcut hm (not_lt.mp h)]
  · rw [if_neg fun hboth => hm hboth.1, hs.step_of_cutsOff_fetch_first hcut (Bool.eq_false_iff.mpr hm)]

end Sys2Proof.Machine
end

section
/-! PROOF. wrap_W is the one word congruent to its argument (spec 00_scope.md R14). -/

namespace Sys2Proof.Machine

/-- R14: the signed reading of the low W bits of `x` is the one word that differs from `x` by a multiple of 2^W. -/
theorem wrapW_eq_iff {W : Nat} (h : 1 ≤ W) {x y : Int} : wrapW W x = y ↔ IsWord W y ∧ (y - x) % 2 ^ W = 0 := by
  have hhalf := one_le_wordHalf W
  have hmod : ((2 ^ W : Nat) : Int) = 2 * wordHalf W := by exact_mod_cast two_pow_eq_wordHalf h
  have hpow : (2 : Int) ^ W = 2 * wordHalf W := by exact_mod_cast hmod
  rw [wrapW, BitVec.toInt_ofInt, Int.bmod_eq_iff (by positivity), hmod, hpow, Int.dvd_iff_emod_eq_zero, ← and_assoc]
  exact and_congr_left fun _ => by omega

theorem isWord_wrapW {W : Nat} (h : 1 ≤ W) (x : Int) : IsWord W (wrapW W x) := ((wrapW_eq_iff h).mp rfl).1

/-- Settles O9: the word wrap_W gives is in range and congruent to its argument, and no other word is. -/
theorem wrapMeetsItsFormula : Obligations.WrapMeetsItsFormula := by
  unfold Obligations.WrapMeetsItsFormula
  intro W x hW
  obtain ⟨hword, hcongr⟩ := (wrapW_eq_iff hW).mp (rfl : wrapW W x = _)
  exact ⟨wrapW_eq_wrapInt hW x, hword, hcongr, fun _ hy hxy => ((wrapW_eq_iff hW).mpr ⟨hy, hxy⟩).symm⟩

end Sys2Proof.Machine
end

section
/-! PROOF. ADD, MUL and EQ do not depend on the order of their operands (spec 40_arith.md R86). -/

namespace Sys2Proof.Machine

/-- R78, R86: where an instruction of the binary protocol has one result for two states' operands, it leaves one word
on top. -/
theorem IsBinary.same_top {i : Instr} {f : State → Int → Int → Int} (hi : IsBinary i f) {s u : State} (hs : s.Sound)
    (hu : u.Sound) (h2s : 2 ≤ s.poppable) (h2u : 2 ≤ u.poppable)
    (hf : f u (u.top 1) (u.top 0) = f s (s.top 1) (s.top 0)) :
    ∃ t v, exec i s = .next t ∧ exec i u = .next v ∧ t.top 0 = v.top 0 := by
  obtain ⟨t, hst, _, htop, _⟩ := hi.exec_pushes hs h2s rfl
  obtain ⟨v, huv, _, hvtop, _⟩ := hi.exec_pushes hu h2u hf
  exact ⟨t, v, hst, huv, htop.trans hvtop.symm⟩

/-- Settles O16: a sum, a product and an equality are the same with their operands exchanged. -/
theorem addMulEqAreCommutative : Obligations.AddMulEqAreCommutative := by
  unfold Obligations.AddMulEqAreCommutative
  simp only [List.forall_mem_cons, List.not_mem_nil, IsEmpty.forall_iff, implies_true, and_true]
  refine ⟨fun s u hs hu hW h2s h2u h0 h1 => isBinary_add.same_top hs hu h2s h2u ?_,
    fun s u hs hu hW h2s h2u h0 h1 => isBinary_mul.same_top hs hu h2s h2u ?_,
    fun s u hs hu hW h2s h2u h0 h1 => isBinary_eq.same_top hs hu h2s h2u ?_⟩
  · rw [hW, h0, h1, Int.add_comm]
  · rw [hW, h0, h1, Int.mul_comm]
  · simp only [h0, h1, eq_comm]

end Sys2Proof.Machine
end

section
/-! PROOF. The run loop (spec 70_reset_and_hazards.md R140, R144): a step of it, a finished engine, and the JMP that
goes to itself. -/

namespace Sys2Proof.Machine

/-- R140: a run of a RUNNING engine begins with its step. -/
theorem run_succ_of_next {s t : State} (budget : Nat) (h : step s = .next t) : run (budget + 1) s = run budget t := by
  have hrun : s.status = .running := (step_next h).1
  simp only [run, hrun, h]

/-- R116, R140: a run of a finished engine takes no step. -/
theorem run_of_not_running {s : State} (h : s.status ≠ .running) (budget : Nat) : run budget s = s := by
  cases budget with
  | zero => rfl
  | succ b =>
    cases hs : s.status with
    | running => exact absurd hs h
    | halted => simp only [run, hs]
    | faulted k fpc => simp only [run, hs]

/-- R141: a finished engine has no step. -/
theorem step_of_not_running {s : State} (h : s.status ≠ .running) : step s = .fault .notRunning := by
  cases hs : s.status with
  | running => exact absurd hs h
  | halted => simp only [step, hs]
  | faulted k fpc => simp only [step, hs]

/-- R125: the result of a run is the one its last state's status stands for. -/
theorem result_of_running {s : State} (h : s.status = .running) : s.result = .noResult := by
  simp only [State.result, h]

/-- Settles O36: neither the step nor the run of an engine that is not RUNNING changes its state. -/
theorem finishedEngineExecutesNothing : Obligations.FinishedEngineExecutesNothing := by
  unfold Obligations.FinishedEngineExecutesNothing
  refine ⟨fun s h => ⟨step_of_not_running h, run_of_not_running h⟩, fun s budget h => ?_, fun s k fpc budget h => ?_⟩
  · rw [run_of_not_running (h ▸ nofun), State.result, h]
  · rw [run_of_not_running (h ▸ nofun), State.result, h]

/-- R144: the step of a JMP to itself leads back to the same state. -/
theorem step_jmp_self {s : State} (hom : s.params.opcodes.Injective) (h : s.Holds (.jmp s.pc)) : step s = .next s := by
  have hdecode := h.fetchDecode hom
  have hin : s.inCode s.pc := (fetchDecode_eq_instr.mp hdecode).1
  rw [step_of_instr h.1 hdecode, exec_jmp, transfer_eq_ok (s := fetched 2 s) |>.mpr ⟨hin, rfl⟩]
  rfl

/-- A state whose step leads back to it is the state of every run from it. -/
theorem run_of_step_self {s : State} (h : step s = .next s) (budget : Nat) : run budget s = s := by
  induction budget with
  | zero => rfl
  | succ b ih => rw [run_succ_of_next b h, ih]

/-- Settles O20: the step of such a JMP leads back to its state, which is RUNNING. -/
theorem jmpToItselfNeverEnds : Obligations.JmpToItselfNeverEnds := by
  unfold Obligations.JmpToItselfNeverEnds
  exact fun s hom h budget => ⟨run_of_step_self (step_jmp_self hom h) budget, result_of_running h.1⟩

end Sys2Proof.Machine
end

section
/-! PROOF. The fault codes (spec 60_exceptions.md R118, R136). -/

namespace Sys2Proof.Machine

theorem FaultKind.code_ne_zero (k : FaultKind) : k.code ≠ 0 := by cases k <;> decide

/-- R118: a status has code 0 when it is no fault. -/
theorem Status.code_eq_zero_iff {st : Status} : st.code = 0 ↔ ∀ k fpc, st ≠ .faulted k fpc := by
  cases st with
  | running => exact iff_of_true rfl nofun
  | halted => exact iff_of_true rfl nofun
  | faulted k fpc => exact iff_of_false k.code_ne_zero fun h => h k fpc rfl

/-- Every fault kind, in the order of the table of R118. -/
def FaultKind.all : List FaultKind :=
  [.stackOverflow, .stackUnderflow, .invalidMemoryAddress, .invalidCodeAddress, .unknownOpcode]

theorem FaultKind.mem_all (k : FaultKind) : k ∈ FaultKind.all := by cases k <;> decide

/-- R118: the codes of the table, from 1 up. -/
theorem FaultKind.all_map_code : FaultKind.all.map FaultKind.code = [1, 2, 3, 4, 5] := rfl

/-- R136: kinds with one code are one kind, since no code stands twice in the table. -/
theorem FaultKind.code_injective {k l : FaultKind} (h : k.code = l.code) : k = l :=
  List.inj_on_of_nodup_map (FaultKind.all_map_code ▸ (by decide : [1, 2, 3, 4, 5].Nodup)) k.mem_all l.mem_all h

/-- Settles O35: the table's codes are 1 to 5, pairwise different and none of them 0. -/
theorem faultCodesAreDistinct : Obligations.FaultCodesAreDistinct := by
  unfold Obligations.FaultCodesAreDistinct
  exact ⟨FaultKind.all_map_code, fun _ _ => FaultKind.code_injective, fun _ => Status.code_eq_zero_iff⟩

end Sys2Proof.Machine
end

section
/-! PROOF. A state right after construction meets the invariant (spec 10_state.md R36 to R39). -/

namespace Sys2Proof.Machine

/-- R13, R36: the bounds after construction. -/
theorem construct_sound {p : Params} (h : p.InRange) : (State.construct p).Sound := by
  have hcap : 1 ≤ p.stackCapacity := h.2.1
  have hsp : (-1 : Int) < p.stackCapacity := by omega
  exact ⟨h, le_rfl, hsp, .inl rfl, floorOf_zero.le, Memory.empty_wf, Memory.empty_wf⟩

theorem construct_words {p : Params} (h : p.InRange) : (State.construct p).Words := by
  obtain ⟨_, _, _, _, _, _, hentry, _⟩ := h
  exact ⟨hentry, isWord_zero _, nofun, nofun, nofun⟩

/-- R39: the stack is empty, no frame is active, and pc is the entry pc. -/
theorem construct_inv {p : Params} (h : p.InRange) : (State.construct p).Inv where
  sound := construct_sound h
  words := construct_words h
  frames := .top
  stackBelow := nofun
  dataBelow := nofun
  pcInCode := .inl rfl
  faultPc := nofun

theorem resetParams_inRange : resetParams.InRange := by decide

/-- R137, R138: where construction answers a state, it is the constructed one of parameters of the width given. -/
theorem eq_construct_of_init {om : OpcodeMap} {cap : Nat} {code : List Int} {entryPc localsSize : Int} {W : Nat}
    {s : State} (h : init om cap code entryPc localsSize W = .ok s) :
    ∃ p : Params, p.wordBits = W ∧ s = State.construct p := by
  by_cases hfail : code = [] ∨ localsSize < 0
  · rw [init_fails om cap entryPc W hfail] at h
    cases h
  · obtain ⟨hcode, hsize⟩ := not_or.mp hfail
    rw [init_constructs om cap entryPc W hcode (not_lt.mp hsize)] at h
    cases h
    exact ⟨_, rfl, rfl⟩

/-- Settles O39: the reset state and every state `init` answers are constructed ones. -/
theorem constructionMeetsTheInvariant : Obligations.ConstructionMeetsTheInvariant := by
  unfold Obligations.ConstructionMeetsTheInvariant
  refine ⟨construct_inv resetParams_inRange, fun om cap code entryPc localsSize W s hinit hrange => ?_⟩
  obtain ⟨p, _, rfl⟩ := eq_construct_of_init hinit
  exact construct_inv hrange

end Sys2Proof.Machine
end

section
/-! PROOF. The assembler (spec 30_encoding.md R74, R75) on the lines of instructions: a well-formed one is translated
into its encoding, and any other is an error. -/

namespace Sys2Proof.Machine

section asm
variable {W : Nat} (om : OpcodeMap) (labels : List (String × Nat))

theorem asm_bind_ok {α β : Type} (a : α) (f : α → Except AsmError β) : (Except.ok a >>= f) = f a := rfl

theorem asm_bind_error {α β : Type} (e : AsmError) (f : α → Except AsmError β) :
    ((Except.error e : Except AsmError α) >>= f) = .error e := rfl

/-- R75: a number that fits is the word it stands for. -/
theorem asmWord_number {n : Int} (h : IsWord W n) : asmWord W labels (.number n) = .ok n := if_pos h

/-- R75: a number that does not fit is an error. -/
theorem asmWord_too_large {n : Int} (h : ¬IsWord W n) :
    asmWord W labels (.number n) = .error (.operandTooLarge n) := if_neg h

/-- R75: numbers that fit are translated into themselves. -/
theorem asmWords_numbers {ws : List Int} (h : ∀ w ∈ ws, IsWord W w) :
    asmWords W labels (ws.map fun w => .number w) = .ok ws := by
  induction ws with
  | nil => rfl
  | cons w ws ih =>
    obtain ⟨hw, hws⟩ := List.forall_mem_cons.mp h
    rw [List.map_cons, asmWords, asmWord_number labels hw, asm_bind_ok, ih hws, asm_bind_ok]
    rfl

/-- R75: among numbers not all of which fit, the first that does not is the error. -/
theorem asmWords_too_large {ws : List Int} (h : ¬∀ w ∈ ws, IsWord W w) :
    ∃ n ∈ ws, ¬IsWord W n ∧ asmWords W labels (ws.map fun w => .number w) = .error (.operandTooLarge n) := by
  induction ws with
  | nil => exact absurd nofun h
  | cons w ws ih =>
    by_cases hw : IsWord W w
    · obtain ⟨n, hn, hlarge, herror⟩ := ih fun hws => h (List.forall_mem_cons.mpr ⟨hw, hws⟩)
      refine ⟨n, List.mem_cons_of_mem _ hn, hlarge, ?_⟩
      rw [List.map_cons, asmWords, asmWord_number labels hw, asm_bind_ok, herror, asm_bind_error]
    · refine ⟨w, List.mem_cons_self, hw, ?_⟩
      rw [List.map_cons, asmWords, asmWord_too_large labels hw, asm_bind_error]

/-- R75: the line of a well-formed instruction is its encoding. -/
theorem asmLine_wf {i : Instr} (h : i.wf W = true) : asmLine W om labels (asmLineOf i) = .ok (encode om i) := by
  have hcount : i.immediates.length + 1 = i.mnemonic.format.words := encode_length om i
  rw [asmLineOf, asmLine, asmWords_numbers labels (Instr.wf_iff.mp h), asm_bind_ok, if_pos hcount]
  rfl

/-- R75: the line of any other instruction is the error of an immediate that does not fit. -/
theorem asmLine_not_wf {i : Instr} (h : i.wf W = false) :
    ∃ n ∈ i.immediates, ¬IsWord W n ∧ asmLine W om labels (asmLineOf i) = .error (.operandTooLarge n) := by
  have hnot : ¬∀ w ∈ i.immediates, IsWord W w := fun hall => Bool.false_ne_true (h.symm.trans (Instr.wf_iff.mpr hall))
  obtain ⟨n, hn, hlarge, herror⟩ := asmWords_too_large labels hnot
  exact ⟨n, hn, hlarge, by rw [asmLineOf, asmLine, herror, asm_bind_error]⟩

/-- R63, R75: well-formed instructions are laid out back to back before whatever follows them. -/
theorem asmLines_wf_append {is : List Instr} (h : ∀ i ∈ is, i.wf W = true) (rest : List AsmLine) :
    asmLines W om labels (is.map asmLineOf ++ rest) =
      asmLines W om labels rest >>= fun more => .ok (is.flatMap (encode om) ++ more) := by
  induction is with
  | nil =>
    rw [List.map_nil, List.nil_append]
    cases asmLines W om labels rest with
    | error e => rfl
    | ok more => rfl
  | cons i is ih =>
    obtain ⟨hi, his⟩ := List.forall_mem_cons.mp h
    rw [List.map_cons, List.cons_append, asmLines, asmLine_wf om labels hi, asm_bind_ok, ih his]
    cases asmLines W om labels rest with
    | error e => rfl
    | ok more =>
      rw [asm_bind_ok, asm_bind_ok, asm_bind_ok, List.flatMap_cons, List.append_assoc]
      rfl

end asm

/-- Settles O52: whatever the labels of a listing, its well-formed lines are their encodings, and the first other line
of an instruction ends the translation with its error. -/
theorem listingAssemblesToTheEncodings : Obligations.ListingAssemblesToTheEncodings := by
  unfold Obligations.ListingAssemblesToTheEncodings
  refine ⟨fun W om is his => ?_, fun W om is i rest his hi => ?_⟩
  · have hlines := asmLines_wf_append om (asmLabels 0 (is.map asmLineOf)) his []
    rwa [List.append_nil, asmLines, asm_bind_ok, List.append_nil] at hlines
  · obtain ⟨n, hn, hlarge, herror⟩ := asmLine_not_wf om (asmLabels 0 (is.map asmLineOf ++ asmLineOf i :: rest)) hi
    exact ⟨n, hn, hlarge, by
      rw [asmProgram, asmLines_wf_append om _ his, asmLines, herror, asm_bind_error, asm_bind_error]⟩

end Sys2Proof.Machine
end

section
/-! PROOF. Everything an instruction that takes no fault can do to the state, in seven effects. The rules of the whole
machine follow from them one effect at a time. -/

namespace Sys2Proof.Machine

theorem State.top_zero (s : State) : s.top 0 = s.stack.read s.sp.toNat := by rw [State.top, sub_zero]

theorem State.Words.stack_read {s : State} (h : s.Words) (a : Nat) : IsWord s.params.wordBits (s.stack.read a) := by
  obtain ⟨_, _, hstack, _, _⟩ := h
  exact Memory.read_words hstack a

theorem State.Words.data_read {s : State} (h : s.Words) (a : Nat) : IsWord s.params.wordBits (s.data.read a) := by
  obtain ⟨_, _, _, hdata, _⟩ := h
  exact Memory.read_words hdata a

/-- R24, R87: pc is past the words of the instruction, or at a target that was checked. -/
def NextPc (i : Instr) (s : State) (pc : Int) : Prop := pc = s.pc + i.words ∨ s.inCode pc

/-- R95, R98: the instruction stores to data cell `a`, by its addressing mode. -/
def StoresAt (i : Instr) (s : State) (a : Int) : Prop :=
  (∃ addr, i = .gstore addr ∧ a = absolute addr) ∨ ∃ offset, i = .store offset ∧ a = frameUp s offset

/-- Instruction `i` has this effect on `s`, and its guards held. -/
inductive Effect (s : State) (i : Instr) : State → Prop where
  /-- One word is left on top, in the slot above the stack or in one the instruction popped (R47, R48). It is a word
  where the instruction's operands are. -/
  | pushes {a v : Int} (slot : s.hasSlot a) (above : a = s.sp + 1 ∨ floorOf s.fp ≤ a)
      (word : s.params.InRange → s.Words → i.wf s.params.wordBits = true → IsWord s.params.wordBits v) :
      Effect s i { s with pc := s.pc + i.words, sp := a, stack := s.stack.write a.toNat v }
  /-- Only pc and sp move: the branches and POP. -/
  | moves {pc sp : Int} (pcNext : NextPc i s pc) (popped : sp = s.sp ∨ floorOf s.fp ≤ s.sp ∧ sp = s.sp - 1) :
      Effect s i (s.movedTo pc sp)
  /-- A popped word is stored in one data cell. -/
  | stores {a : Int} (address : StoresAt i s a) (poppable : floorOf s.fp ≤ s.sp) (cell : s.hasCell a) :
      Effect s i { s.movedTo (s.pc + i.words) (s.sp - 1) with data := s.data.write a.toNat (s.top 0) }
  /-- A frame is pushed and its callee entered. -/
  | calls {addr argc : Int} (instr : i = .call addr argc) (args : 0 ≤ argc ∧ argc ≤ s.poppable)
      (room : 0 ≤ s.sp + 1 ∧ s.sp + 3 < s.params.stackCapacity) (target : s.inCode addr) :
      Effect s i (s.withFrame argc addr)
  /-- The active frame is unwound. -/
  | returns (instr : i = .ret) (callee : 2 ≤ s.fp) (fits : s.frame.FitsBelow s.fp) (target : s.inCode s.frame.retPc)
      (slot : s.hasSlot (s.fp - 2 - s.frame.argc)) : Effect s i s.unwound
  /-- A popped word is printed. -/
  | prints (instr : i = .print) (poppable : floorOf s.fp ≤ s.sp) :
      Effect s i { s.movedTo (s.pc + i.words) (s.sp - 1) with out := s.out ++ [s.top 0] }
  /-- The run ends. -/
  | halts (instr : i = .halt) : Effect s i { s with pc := s.pc + i.words, status := .halted }

theorem BinaryCommits.effect {f : Int → Int → Int} {s t : State} {i : Instr} (h : BinaryCommits f s t)
    (hi : i.words = 1) (hword : s.params.InRange → ∀ a b, IsWord s.params.wordBits (f a b)) : Effect s i t := by
  obtain ⟨hfloor, _, hslot, rfl⟩ := h
  have heffect := Effect.pushes (i := i) hslot (.inr hfloor) fun hrange _ _ =>
    hword hrange (s.stack.read (s.sp - 1).toNat) (s.stack.read s.sp.toNat)
  rwa [hi] at heffect

/-- R17: an instruction that answers took a fault, or it had one of the seven effects. -/
theorem exec_next_effect {i : Instr} {s t : State} (h : exec i s = .next t) : FaultOr s t (Effect s i t) := by
  cases i with
  | const v =>
    refine (exec_const_next h).imp_right ?_
    rintro ⟨hslot, rfl⟩
    exact .pushes hslot (.inl rfl) fun _ _ hwf => of_decide_eq_true hwf
  | add => exact (exec_add_next h).imp_right fun hc => hc.effect rfl fun hr _ _ => isWord_wrapW (one_le_wordBits hr) _
  | sub => exact (exec_sub_next h).imp_right fun hc => hc.effect rfl fun hr _ _ => isWord_wrapW (one_le_wordBits hr) _
  | mul => exact (exec_mul_next h).imp_right fun hc => hc.effect rfl fun hr _ _ => isWord_wrapW (one_le_wordBits hr) _
  | lt => exact (exec_lt_next h).imp_right fun hc => hc.effect rfl fun hr _ _ => isWord_truthWord (two_le_wordHalf hr) _
  | eq => exact (exec_eq_next h).imp_right fun hc => hc.effect rfl fun hr _ _ => isWord_truthWord (two_le_wordHalf hr) _
  | jmp a =>
    refine (exec_jmp_next h).imp_right ?_
    rintro ⟨hin, rfl⟩
    exact .moves (.inr hin) (.inl rfl)
  | jmpt a =>
    refine (exec_jmpt_next h).imp_right ?_
    rintro ⟨⟨hfloor, _⟩, ⟨_, hin, rfl⟩ | ⟨_, rfl⟩⟩
    · exact .moves (.inr hin) (.inr ⟨hfloor, rfl⟩)
    · exact .moves (.inl rfl) (.inr ⟨hfloor, rfl⟩)
  | jmpf a =>
    refine (exec_jmpf_next h).imp_right ?_
    rintro ⟨⟨hfloor, _⟩, ⟨_, hin, rfl⟩ | ⟨_, rfl⟩⟩
    · exact .moves (.inr hin) (.inr ⟨hfloor, rfl⟩)
    · exact .moves (.inl rfl) (.inr ⟨hfloor, rfl⟩)
  | gload =>
    refine (exec_gload_next h).imp_right ?_
    rintro ⟨⟨hfloor, hslot⟩, _, rfl⟩
    exact .pushes hslot (.inr hfloor) fun _ hwords _ => hwords.data_read _
  | gstore a =>
    refine (exec_gstore_next h).imp_right ?_
    rintro ⟨⟨hfloor, _⟩, hcell, rfl⟩
    rw [← s.top_zero]
    exact .stores (.inl ⟨a, rfl, rfl⟩) hfloor hcell
  | load off =>
    refine (exec_load_next h).imp_right ?_
    rintro ⟨_, hslot, rfl⟩
    exact .pushes hslot (.inl rfl) fun _ hwords _ => hwords.stack_read _
  | ldarg off =>
    refine (exec_ldarg_next h).imp_right ?_
    rintro ⟨_, hslot, rfl⟩
    exact .pushes hslot (.inl rfl) fun _ hwords _ => hwords.stack_read _
  | store off =>
    refine (exec_store_next h).imp_right ?_
    rintro ⟨⟨hfloor, _⟩, hcell, rfl⟩
    rw [← s.top_zero]
    exact .stores (.inr ⟨off, rfl, rfl⟩) hfloor hcell
  | call a n =>
    refine (exec_call_next h).imp_right ?_
    rintro ⟨hargs, hge, hroom, hin, rfl⟩
    exact .calls rfl hargs ⟨hge, hroom⟩ hin
  | ret =>
    refine (exec_ret_next h).imp_right ?_
    rintro ⟨_, _, _, rfl, rfl, rfl, _, hcallee, hargc, hwithin, hin, hslot, rfl⟩
    rw [← s.top_zero]
    exact .returns rfl hcallee ⟨hargc, hwithin⟩ hin hslot
  | print =>
    refine (exec_print_next h).imp_right ?_
    rintro ⟨⟨hfloor, _⟩, rfl⟩
    rw [← s.top_zero]
    exact .prints rfl hfloor
  | pop =>
    refine (exec_pop_next h).imp_right ?_
    rintro ⟨⟨hfloor, _⟩, rfl⟩
    exact .moves (.inl rfl) (.inr ⟨hfloor, rfl⟩)
  | halt =>
    refine (exec_halt_next h).imp_right ?_
    rintro rfl
    exact .halts rfl

/-- R141: a step that answers took a fault, or the instruction at pc had its effect. -/
theorem step_next_effect {s t : State} (h : step s = .next t) :
    FaultOr s t (∃ i, fetchDecode s = .instr i ∧ Effect s i t) := by
  obtain ⟨_, hfault | ⟨i, hdecode, hexec⟩⟩ := step_next h
  · exact .inl hfault
  · exact (exec_next_effect hexec).imp_right fun heffect => ⟨i, hdecode, heffect⟩

/-! ### Who writes OUT, data memory, fp and the status -/

section effect
variable {s t : State} {i : Instr}

theorem Effect.out_eq (h : Effect s i t) : t.out = s.out ∨ i = .print ∧ t.out = s.out ++ [s.top 0] := by
  cases h with
  | prints hi => exact .inr ⟨hi, rfl⟩
  | pushes | moves | stores | calls | returns | halts => exact .inl rfl

theorem Effect.data_eq (h : Effect s i t) : t.data = s.data ∨ ∃ a, StoresAt i s a ∧ DataSameBut a s t := by
  cases h with
  | @stores a haddress _ hcell =>
    have hge := hcell.1
    exact .inr ⟨a, haddress, fun b hb => Memory.read_write_other _ _ _ _ (by omega)⟩
  | pushes | moves | calls | returns | prints | halts => exact .inl rfl

theorem Effect.fp_eq (h : Effect s i t) : t.fp = s.fp ∨ (∃ addr argc, i = .call addr argc) ∨ i = .ret := by
  cases h with
  | calls hi => exact .inr (.inl ⟨_, _, hi⟩)
  | returns hi => exact .inr (.inr hi)
  | pushes | moves | stores | prints | halts => exact .inl rfl

end effect

/-- R30: what a step does to OUT. -/
theorem step_next_out {s t : State} (h : step s = .next t) :
    t.out = s.out ∨ fetchDecode s = .instr .print ∧ t.out = s.out ++ [s.top 0] := by
  rcases step_next_effect h with ⟨k, rfl⟩ | ⟨i, hdecode, heffect⟩
  · exact .inl (takeFault_out k s)
  · refine heffect.out_eq.imp_right ?_
    rintro ⟨rfl, hout⟩
    exact ⟨hdecode, hout⟩

/-- Settles O46: PRINT is the one effect on OUT, and a fault has none. -/
theorem onlyPrintWritesOut : Obligations.OnlyPrintWritesOut := by
  unfold Obligations.OnlyPrintWritesOut
  exact fun _ _ => step_next_out

/-- Settles O47: the data stores are the one effect on data memory, each at the cell of its addressing mode. -/
theorem onlyGstoreAndStoreWriteData : Obligations.OnlyGstoreAndStoreWriteData := by
  unfold Obligations.OnlyGstoreAndStoreWriteData
  intro s t h
  rcases step_next_effect h with ⟨k, rfl⟩ | ⟨i, hdecode, heffect⟩
  · exact .inl (takeFault_data k s)
  · refine heffect.data_eq.imp_right ?_
    rintro ⟨_, ⟨_, rfl, rfl⟩ | ⟨_, rfl, rfl⟩, hsame⟩
    · exact .inl ⟨_, hdecode, hsame⟩
    · exact .inr ⟨_, hdecode, hsame⟩

/-- Settles O48: entering a callee and unwinding a frame are the two effects on fp. -/
theorem onlyCallAndRetWriteFp : Obligations.OnlyCallAndRetWriteFp := by
  unfold Obligations.OnlyCallAndRetWriteFp
  intro s t h hne
  rcases step_next_effect h with ⟨k, rfl⟩ | ⟨i, hdecode, heffect⟩
  · exact absurd (takeFault_fp k s) hne
  · rcases heffect.fp_eq.resolve_left hne with ⟨addr, argc, rfl⟩ | rfl
    · exact .inl ⟨addr, argc, hdecode⟩
    · exact .inr hdecode

/-- Settles O49: a step that neither takes a fault nor goes on RUNNING executed the HALT at pc. -/
theorem onlyHaltEndsARunInSuccess : Obligations.OnlyHaltEndsARunInSuccess := by
  unfold Obligations.OnlyHaltEndsARunInSuccess
  intro s t h hhalted
  rcases step_next_status h with ⟨k, rfl⟩ | hrunning | ⟨hdecode, _⟩
  · cases (takeFault_status k s).symm.trans hhalted
  · cases hrunning.symm.trans hhalted
  · exact hdecode

/-- R30: a step only appends to OUT. -/
theorem out_isPrefix_of_step {s t : State} (h : step s = .next t) : s.out <+: t.out := by
  rcases step_next_out h with hout | ⟨_, hout⟩
  · rw [hout]
  · rw [hout]
    exact List.prefix_append _ _

/-- R140: a run of a positive budget that does not begin with a step leaves the state as it is. -/
theorem run_succ_of_no_next {s : State} (budget : Nat) (h : ∀ t, step s ≠ .next t) : run (budget + 1) s = s := by
  cases hs : s.status with
  | running =>
    cases hstep : step s with
    | next t => exact absurd hstep (h t)
    | fault f => simp only [run, hs, hstep]
    | refused f => simp only [run, hs, hstep]
  | halted => exact run_of_not_running (hs ▸ nofun) _
  | faulted k fpc => exact run_of_not_running (hs ▸ nofun) _

/-- Settles O43: by induction on the budget, each step of the run appends to OUT or leaves it. -/
theorem outputIsAppendOnlyAlongARun : Obligations.OutputIsAppendOnlyAlongARun := by
  unfold Obligations.OutputIsAppendOnlyAlongARun
  intro s budget
  induction budget generalizing s with
  | zero => exact List.prefix_rfl
  | succ b ih =>
    by_cases hnext : ∃ t, step s = .next t
    · obtain ⟨t, hstep⟩ := hnext
      rw [run_succ_of_next b hstep]
      exact (out_isPrefix_of_step hstep).trans (ih t)
    · rw [run_succ_of_no_next b (not_exists.mp hnext)]

/-! ### pc -/

/-- R37: an effect of the instruction at pc leaves pc within [0, N]. -/
theorem Effect.pc_within {s t : State} {i : Instr} (h : Effect s i t) (hdecode : fetchDecode s = .instr i) :
    0 ≤ t.pc ∧ t.pc ≤ s.codeSize := by
  obtain ⟨hge, hle⟩ := within_code_of_fetchDecode hdecode
  have hpast : 0 ≤ s.pc + i.words ∧ s.pc + i.words ≤ s.codeSize := by omega
  have hin : ∀ {pc : Int}, s.inCode pc → 0 ≤ pc ∧ pc ≤ s.codeSize := fun hpc => ⟨hpc.1, hpc.2.le⟩
  cases h with
  | moves hpc => exact hpc.elim (fun heq => heq ▸ hpast) hin
  | calls _ _ _ htarget => exact hin htarget
  | returns _ _ _ htarget => exact hin htarget
  | pushes | stores | prints | halts => exact hpast

theorem codeSize_eq_of_params {s t : State} (h : t.params = s.params) : t.codeSize = s.codeSize := by
  rw [State.codeSize, h, State.codeSize]

/-- Settles O44: past its words or at a checked target, no instruction leaves [0, N]; and construction does not check
its entry pc, which the first fetch does. -/
theorem pcStaysWithinCode : Obligations.PcStaysWithinCode := by
  unfold Obligations.PcStaysWithinCode
  refine ⟨fun s t _ h hnofault => ?_, fun p hout => step_construct_of_not_inCode (State.not_inCode_iff.mpr hout)⟩
  rcases step_next_effect h with ⟨k, rfl⟩ | ⟨i, hdecode, heffect⟩
  · exact absurd (takeFault_status k s) (hnofault k s.pc)
  · rw [codeSize_eq_of_params (step_next_params h)]
    exact heffect.pc_within hdecode

end Sys2Proof.Machine
end

section
/-! PROOF. The invariant (spec 10_state.md R36 to R38, 43_call_return.md R108): every step keeps it, part by part and
effect by effect. -/

namespace Sys2Proof.Machine

/-! ### The frame chain -/

/-- R38 (b), R108: a frame chain lies below the floor of its first frame. -/
theorem Frames.congr {n : Nat} {st st' : Memory} {fp : Int} (h : Frames n st fp)
    (hsame : ∀ j : Nat, (j : Int) < floorOf fp → st'.read j = st.read j) : Frames n st' fp := by
  induction h with
  | top => exact .top
  | callee fp hcallable hargc hwithin hret _ ih =>
    rw [floorOf_of_ne (by omega)] at hsame
    have hpc : st'.read fp.toNat = st.read fp.toNat := hsame _ (by omega)
    have hfp : st'.read (fp - 1).toNat = st.read (fp - 1).toNat := hsame _ (by omega)
    have hn : st'.read (fp - 2).toNat = st.read (fp - 2).toNat := hsame _ (by omega)
    rw [← hn] at hargc
    rw [← hn, ← hfp] at hwithin
    rw [← hpc] at hret
    refine .callee fp hcallable hargc hwithin hret ?_
    rw [hfp] at hwithin ⊢
    exact ih fun j hj => hsame j (by omega)

theorem Frames.write_above {n : Nat} {st : Memory} {fp a : Int} (h : Frames n st fp) (ha : floorOf fp ≤ a) (v : Int) :
    Frames n (st.write a.toNat v) fp :=
  h.congr fun _ _ => Memory.read_write_other _ _ _ _ (by omega)

/-- R100: the frame words a CALL leaves. -/
theorem State.Sound.withFrame_frame {s : State} (hs : s.Sound) (argc pc : Int) :
    (s.withFrame argc pc).frame = { retPc := s.pc + 3, oldFp := s.fp, argc := argc } := by
  obtain ⟨hargc, hfp, hpc⟩ := hs.withFrame_top argc pc
  rw [State.top, sub_zero] at hpc
  rw [State.frame, Frame.mk.injEq]
  exact ⟨hpc, hfp, hargc⟩

/-- R108: an active frame whose words a CALL can have pushed starts a frame chain where its caller does. -/
theorem frames_of_frame {s : State} (hcallee : 2 ≤ s.fp) (hfits : s.frame.FitsBelow s.fp)
    (hret : 0 ≤ s.frame.retPc ∧ s.frame.retPc ≤ s.codeSize) (h : Frames s.codeSize s.stack s.frame.oldFp) :
    Frames s.codeSize s.stack s.fp :=
  .callee s.fp hcallee hfits.1 hfits.2 hret h

/-- R108: a CALL's frame, with the caller's chain below it, is a frame chain. -/
theorem State.Sound.withFrame_frames {s : State} (hs : s.Sound) {argc : Int} (pc : Int)
    (hargs : 0 ≤ argc ∧ argc ≤ s.poppable) (hret : 0 ≤ s.pc + 3 ∧ s.pc + 3 ≤ s.codeSize)
    (h : Frames s.codeSize s.stack s.fp) :
    Frames s.codeSize (s.withFrame argc pc).stack (s.withFrame argc pc).fp := by
  obtain ⟨hge, hle⟩ := hargs
  rw [State.poppable] at hle
  have hsp := hs.sp_ge
  have hfloor := hs.floor_le
  have hcaller : Frames s.codeSize (s.withFrame argc pc).stack s.fp :=
    h.congr fun j hj => hs.withFrame_stack_other argc pc (.inl (by omega))
  refine frames_of_frame (s := s.withFrame argc pc) (show 2 ≤ s.sp + 3 by omega) ?_ ?_ ?_
  · rw [hs.withFrame_frame]
    exact ⟨hge, show floorOf s.fp - 1 ≤ s.sp + 3 - 3 - argc by omega⟩
  · rw [hs.withFrame_frame]
    exact hret
  · rw [hs.withFrame_frame]
    exact hcaller

section effect
variable {s t : State} {i : Instr}

/-- R36, R46: the slot a push writes is not below the floor. -/
theorem State.Sound.floorOf_le_pushed (hs : s.Sound) {a : Int} (h : a = s.sp + 1 ∨ floorOf s.fp ≤ a) :
    floorOf s.fp ≤ a := by
  have := hs.floor_le
  omega

theorem Effect.frames (h : Effect s i t) (hinv : s.Inv) (hdecode : fetchDecode s = .instr i) :
    Frames s.codeSize t.stack t.fp := by
  have hframes := hinv.frames
  cases h with
  | pushes _ habove => exact hframes.write_above (hinv.sound.floorOf_le_pushed habove) _
  | calls hi hargs =>
    subst hi
    obtain ⟨hge, hle⟩ := within_code_of_fetchDecode hdecode
    have hret : 0 ≤ s.pc + 3 := by omega
    exact hinv.sound.withFrame_frames _ hargs ⟨hret, hle⟩ hframes
  | returns _ hcallee hfits =>
    obtain ⟨_, hwithin⟩ := hfits
    obtain ⟨_, hcaller⟩ := hinv.active_frame (by omega)
    exact hcaller.write_above (by omega) _
  | moves | stores | prints | halts => exact hframes

/-! ### The bounds of sp and fp -/

theorem Frames.fp_legal {n : Nat} {st : Memory} {fp : Int} (h : Frames n st fp) : fp = 0 ∨ 2 ≤ fp :=
  (frames_iff.mp h).imp_right fun hcallee => hcallee.1

/-- R36: a CALL that finds room keeps the bounds. -/
theorem State.Sound.withFrame_sound (hs : s.Sound) {argc pc : Int}
    (hroom : 0 ≤ s.sp + 1 ∧ s.sp + 3 < s.params.stackCapacity) : (s.withFrame argc pc).Sound := by
  obtain ⟨hge, hlt⟩ := hroom
  have hfloor : floorOf (s.sp + 3) = s.sp + 3 + 1 := floorOf_of_ne (by omega)
  refine ⟨hs.inRange, show -1 ≤ s.sp + 3 by omega, hlt, .inr (show 2 ≤ s.sp + 3 by omega),
    show floorOf (s.sp + 3) - 1 ≤ s.sp + 3 by omega, ?_, hs.data_wf⟩
  exact Memory.write_wf _ (Memory.write_wf _ (Memory.write_wf _ hs.stack_wf _ _) _ _) _ _

/-- R36: one word popped, or none, keeps the bounds. -/
theorem State.Sound.movedTo_sound (hs : s.Sound) (pc : Int) {sp : Int}
    (h : sp = s.sp ∨ floorOf s.fp ≤ s.sp ∧ sp = s.sp - 1) : (s.movedTo pc sp).Sound := by
  have hge := hs.sp_ge
  have hlt := hs.sp_lt
  have hfloor := hs.floor_le
  have hnonneg := hs.floorOf_nonneg
  exact ⟨hs.inRange, show -1 ≤ sp by omega, show sp < s.params.stackCapacity by omega, hs.fp_legal,
    show floorOf s.fp - 1 ≤ sp by omega, hs.stack_wf, hs.data_wf⟩

theorem Effect.sound (h : Effect s i t) (hinv : s.Inv) : t.Sound := by
  have hs := hinv.sound
  cases h with
  | @pushes a _ hslot habove =>
    have hfloor := hs.floorOf_le_pushed habove
    obtain ⟨hge, hlt⟩ := hslot
    exact ⟨hs.inRange, show -1 ≤ a by omega, hlt, hs.fp_legal, show floorOf s.fp - 1 ≤ a by omega,
      Memory.write_wf _ hs.stack_wf _ _, hs.data_wf⟩
  | moves _ hpopped => exact hs.movedTo_sound _ hpopped
  | stores _ hpop =>
    obtain ⟨hrange, hge, hlt, hfp, hfloor, hstack, hdata⟩ := hs.movedTo_sound (s.pc + i.words) (.inr ⟨hpop, rfl⟩)
    exact ⟨hrange, hge, hlt, hfp, hfloor, hstack, Memory.write_wf _ hdata _ _⟩
  | calls _ _ hroom => exact hs.withFrame_sound hroom
  | returns _ hcallee hfits _ hslot =>
    obtain ⟨_, hcaller⟩ := hinv.active_frame (by omega)
    obtain ⟨_, hwithin⟩ := hfits
    obtain ⟨hge, hlt⟩ := hslot
    exact ⟨hs.inRange, show -1 ≤ s.fp - 2 - s.frame.argc by omega, hlt, hcaller.fp_legal,
      show floorOf s.frame.oldFp - 1 ≤ s.fp - 2 - s.frame.argc by omega, Memory.write_wf _ hs.stack_wf _ _, hs.data_wf⟩
  | prints _ hpop => exact hs.movedTo_sound (s.pc + i.words) (.inr ⟨hpop, rfl⟩)
  | halts => exact hs

/-! ### Words and cells -/

/-- R13: with the parameters in range, an index from 0 to N is a word. -/
theorem isWord_of_within_code (hs : s.params.InRange) {x : Int} (h : 0 ≤ x ∧ x ≤ s.codeSize) :
    IsWord s.params.wordBits x := by
  have hcode : s.codeSize ≤ wordHalf s.params.wordBits - 1 := hs.1
  have hhalf := one_le_wordHalf s.params.wordBits
  exact isWord_of_index h.1 (by omega)

/-- R13: with the parameters in range, the index of a slot is a word. -/
theorem isWord_of_hasSlot (hs : s.params.InRange) {x : Int} (h : s.hasSlot x) : IsWord s.params.wordBits x := by
  have hcap : s.params.stackCapacity ≤ wordHalf s.params.wordBits := hs.2.2.1
  obtain ⟨hge, hlt⟩ := h
  exact isWord_of_index hge (by omega)

theorem Effect.words (h : Effect s i t) (hinv : s.Inv) (hdecode : fetchDecode s = .instr i) : t.Words := by
  have hrange := hinv.sound.inRange
  have hwf := wf_of_fetchDecode hrange hdecode
  have hpc := isWord_of_within_code hrange (h.pc_within hdecode)
  have hwords := hinv.words
  obtain ⟨_, hfp, hstack, hdata, hout⟩ := hinv.words
  cases h with
  | pushes _ _ hword => exact ⟨hpc, hfp, Memory.write_words hstack _ (hword hrange hwords hwf), hdata, hout⟩
  | moves | halts => exact ⟨hpc, hfp, hstack, hdata, hout⟩
  | stores => exact ⟨hpc, hfp, hstack, Memory.write_words hdata _ (hwords.stack_read _), hout⟩
  | @calls addr argc hi hargs hroom =>
    subst hi
    have hargc : IsWord s.params.wordBits argc := Instr.wf_iff.mp hwf argc (List.mem_cons_of_mem _ List.mem_cons_self)
    obtain ⟨hge, hle⟩ := within_code_of_fetchDecode hdecode
    have hret : IsWord s.params.wordBits (s.pc + 3) := isWord_of_within_code hrange ⟨by omega, hle⟩
    have hslot : s.hasSlot (s.sp + 3) := ⟨by omega, hroom.2⟩
    exact ⟨hpc, isWord_of_hasSlot hrange hslot, Memory.write_words (Memory.write_words (Memory.write_words hstack _
      hargc) _ hfp) _ hret, hdata, hout⟩
  | returns => exact ⟨hpc, hwords.stack_read _, Memory.write_words hstack _ (hwords.stack_read _), hdata, hout⟩
  | prints =>
    refine ⟨hpc, hfp, hstack, hdata, fun w hw => ?_⟩
    rcases List.mem_append.mp hw with hw | hw
    · exact hout w hw
    · rw [List.mem_singleton.mp hw]
      exact hwords.stack_read _

theorem Memory.write_below_of_hasSlot {m : Memory} (hm : m.below s.params.stackCapacity) {a : Int} (h : s.hasSlot a)
    (v : Int) : (m.write a.toNat v).below s.params.stackCapacity :=
  Memory.write_below _ _ hm _ ((Int.toNat_lt h.1).mpr h.2) v

/-- R28: an effect writes slots that exist. -/
theorem Effect.stackBelow (h : Effect s i t) (hinv : s.Inv) : t.stack.below s.params.stackCapacity := by
  have hbelow := hinv.stackBelow
  cases h with
  | pushes hslot => exact Memory.write_below_of_hasSlot hbelow hslot _
  | calls _ _ hroom =>
    obtain ⟨hge, hlt⟩ := hroom
    exact Memory.write_below_of_hasSlot (Memory.write_below_of_hasSlot (Memory.write_below_of_hasSlot hbelow
      ⟨hge, by omega⟩ _) ⟨by omega, by omega⟩ _) ⟨by omega, hlt⟩ _
  | returns _ _ _ _ hslot => exact Memory.write_below_of_hasSlot hbelow hslot _
  | moves | stores | prints | halts => exact hbelow

/-- R29: an effect writes data cells that exist. -/
theorem Effect.dataBelow (h : Effect s i t) (hinv : s.Inv) : t.data.below s.params.dataSize := by
  have hbelow := hinv.dataBelow
  cases h with
  | stores _ _ hcell => exact Memory.write_below _ _ hbelow _ ((Int.toNat_lt hcell.1).mpr hcell.2) _
  | pushes | moves | calls | returns | prints | halts => exact hbelow

/-- R27: no effect leads to FAULTED. -/
theorem Effect.status_eq (h : Effect s i t) : t.status = s.status ∨ t.status = .halted := by
  cases h with
  | halts => exact .inr rfl
  | pushes | moves | stores | calls | returns | prints => exact .inl rfl

end effect

/-! ### The invariant -/

theorem takeFault_inv {s : State} (hinv : s.Inv) (k : FaultKind) : (takeFault k s).Inv where
  sound := hinv.sound
  words := hinv.words
  frames := hinv.frames
  stackBelow := hinv.stackBelow
  dataBelow := hinv.dataBelow
  pcInCode := hinv.pcInCode
  faultPc _ _ h := (Status.faulted.inj h).2.symm

theorem step_keeps_inv {s t : State} (hinv : s.Inv) (h : step s = .next t) : t.Inv := by
  have hrun : s.status = .running := (step_next h).1
  have hparams := step_next_params h
  rcases step_next_effect h with ⟨k, rfl⟩ | ⟨i, hdecode, heffect⟩
  · exact takeFault_inv hinv k
  · have hsize := codeSize_eq_of_params hparams
    refine ⟨heffect.sound hinv, heffect.words hinv hdecode, hsize ▸ heffect.frames hinv hdecode,
      hparams ▸ heffect.stackBelow hinv, hparams ▸ heffect.dataBelow hinv, .inr (hsize ▸ heffect.pc_within hdecode),
      fun k fpc hfaulted => ?_⟩
    rcases heffect.status_eq with hst | hst
    · cases (hst.trans hrun).symm.trans hfaulted
    · cases hst.symm.trans hfaulted

/-- Settles O40: taking a fault touches nothing the invariant speaks of but the status, and each effect keeps each part
of it. -/
theorem everyStepKeepsTheInvariant : Obligations.EveryStepKeepsTheInvariant := by
  unfold Obligations.EveryStepKeepsTheInvariant
  exact fun _ _ => step_keeps_inv

/-- Settles O53: `init` builds an engine of the width given, and every word of a state that meets the invariant has its
engine's width, which no step changes. -/
theorem everyWordHasTheWidthGiven : Obligations.EveryWordHasTheWidthGiven := by
  unfold Obligations.EveryWordHasTheWidthGiven
  refine ⟨fun om cap code entryPc localsSize W s hinit => ?_, fun _ _ _ _ _ => rfl, fun s t hinv h => ?_⟩
  · obtain ⟨p, rfl, rfl⟩ := eq_construct_of_init hinit
    rfl
  · have hwords := (step_keeps_inv hinv h).words
    obtain ⟨hpc, hfp, _, _, hout⟩ := (step_keeps_inv hinv h).words
    rw [← step_next_params h]
    exact ⟨rfl, hpc, hfp, hwords.stack_read, hwords.data_read, hout⟩

/-- R38 (b): an effect writes no slot below the floor of a frame active before and after it. -/
theorem Effect.stack_below_floors {s t : State} {i : Instr} (h : Effect s i t) (hs : s.Sound) {j : Nat}
    (hbefore : (j : Int) < floorOf s.fp) (hafter : (j : Int) < floorOf t.fp) : t.stack.read j = s.stack.read j := by
  cases h with
  | pushes _ habove =>
    have := hs.floorOf_le_pushed habove
    exact Memory.read_write_other _ _ _ _ (by omega)
  | calls =>
    have := hs.floor_le
    exact hs.withFrame_stack_other _ _ (.inl (by omega))
  | returns _ _ hfits =>
    obtain ⟨_, hwithin⟩ := hfits
    have hcaller : (j : Int) < floorOf s.frame.oldFp := hafter
    exact Memory.read_write_other _ _ _ _ (by omega)
  | moves | stores | prints | halts => rfl

theorem step_stack_below_floors {s t : State} (hs : s.Sound) (h : step s = .next t) {j : Nat}
    (hbefore : (j : Int) < floorOf s.fp) (hafter : (j : Int) < floorOf t.fp) : t.stack.read j = s.stack.read j := by
  rcases step_next_effect h with ⟨k, rfl⟩ | ⟨i, _, heffect⟩
  · rfl
  · exact heffect.stack_below_floors hs hbefore hafter

/-- Settles O50: pushes and frames go above the caller's floor, and a return value goes above its caller's. -/
theorem frameWordsAreNeverOverwritten : Obligations.FrameWordsAreNeverOverwritten := by
  unfold Obligations.FrameWordsAreNeverOverwritten
  exact fun _ _ hinv h _ => step_stack_below_floors hinv.sound h

end Sys2Proof.Machine
end

section
/-! PROOF. The calling convention over more than one step (spec 43_call_return.md R101, R107): the callee reads its
arguments, and a CALL and the RET that matches it balance. -/

namespace Sys2Proof.Machine

/-- R17, R27: an instruction that leaves the engine RUNNING took no fault. -/
theorem FaultOr.of_running {s t : State} {P : Prop} (h : FaultOr s t P) (hrun : t.status = .running) : P := by
  refine h.resolve_left ?_
  rintro ⟨k, rfl⟩
  cases (takeFault_status k s).symm.trans hrun

/-- R103: a CALL that leaves the engine RUNNING pushed its frame. -/
theorem entered_of_exec_call {s c : State} {addr argc : Int} (h : exec (.call addr argc) s = .next c)
    (hrun : c.status = .running) :
    (0 ≤ argc ∧ argc ≤ s.poppable) ∧ (0 ≤ s.sp + 1 ∧ s.sp + 3 < s.params.stackCapacity) ∧
      c = s.withFrame argc addr := by
  obtain ⟨hargs, hge, hlt, _, heq⟩ := (exec_call_next h).of_running hrun
  exact ⟨hargs, ⟨hge, hlt⟩, heq⟩

/-- R105: a RET that leaves the engine RUNNING unwound the active frame. -/
theorem unwound_of_exec_ret {u v : State} (h : exec .ret u = .next v) (hrun : v.status = .running) :
    u.hasSlot (u.fp - 2 - u.frame.argc) ∧ v = u.unwound := by
  obtain ⟨_, _, _, rfl, rfl, rfl, _, _, _, _, _, hslot, heq⟩ := (exec_ret_next h).of_running hrun
  refine ⟨hslot, heq.trans ?_⟩
  rw [State.unwound, u.top_zero]

/-- Settles O27: the arguments lie right below the frame words, so counting down from fp - 3 reaches the k-th of them,
which no push of the frame has touched. -/
theorem calleeReadsItsArguments : Obligations.CalleeReadsItsArguments := by
  unfold Obligations.CalleeReadsItsArguments
  intro s t addr argc k hs _ hcall hrun hk hfree
  obtain ⟨⟨_, hle⟩, hroom, rfl⟩ := entered_of_exec_call hcall hrun
  have hindex : frameArg (s.withFrame argc addr) (argc - 1 - k) = s.sp - argc + 1 + k := by
    show s.sp + 3 - 3 - (argc - 1 - k) = s.sp - argc + 1 + k
    omega
  have hfloor := hs.floorOf_nonneg
  rw [State.poppable] at hle
  have hge : 0 ≤ s.sp - argc + 1 + k := by omega
  have hbelow : s.sp - argc + 1 + k ≤ s.sp := by omega
  obtain ⟨u, hexec, _, htop, _⟩ := (pushesSlot_ldarg (argc - 1 - k)).exec_pushes
    (hs.withFrame_sound (argc := argc) (pc := addr) hroom) (hindex ▸ hge)
    (hindex ▸ hbelow.trans (show s.sp ≤ s.sp + 3 by omega)) hfree
  refine ⟨u, hexec, htop.trans ?_⟩
  rw [hindex]
  exact hs.withFrame_stack_other argc addr (.inl (by omega))

/-- R107: a path inside the frame at `f` or the frames it calls keeps every slot up to `f`. -/
theorem StepsWithin.keeps {f : Int} {c u : State} (h : StepsWithin f c u) (hinv : c.Inv) (hf : 2 ≤ f)
    (hinside : f ≤ c.fp) :
    u.Inv ∧ f ≤ u.fp ∧ ∀ j : Nat, (j : Int) ≤ f → u.stack.read j = c.stack.read j := by
  have hfloor : ∀ {s : State}, f ≤ s.fp → f < floorOf s.fp := fun hfp => by
    rw [floorOf_of_ne (by omega)]
    omega
  induction h with
  | refl => exact ⟨hinv, hinside, fun _ _ => rfl⟩
  | step _ hnext hin ih =>
    obtain ⟨hinvt, hfp, hsame⟩ := ih
    exact ⟨step_keeps_inv hinvt hnext, hin, fun j hj =>
      (step_stack_below_floors hinvt.sound hnext (hj.trans_lt (hfloor hfp)) (hj.trans_lt (hfloor hin))).trans
        (hsame j hj)⟩

/-- R105: two states with one fp that agree on the slots up to it have the same frame. -/
theorem frame_eq_of_same {c u : State} (hfp : u.fp = c.fp) (hcallee : 2 ≤ c.fp)
    (hsame : ∀ j : Nat, (j : Int) ≤ c.fp → u.stack.read j = c.stack.read j) : u.frame = c.frame := by
  rw [State.frame, hfp, hsame _ (by omega), hsame (c.fp - 1).toNat (by omega), hsame (c.fp - 2).toNat (by omega)]

/-- Settles O29: the callee's frame is still the one its CALL pushed when the matching RET reads it, and nothing below
it has been written. -/
theorem callAndMatchingRetBalance : Obligations.CallAndMatchingRetBalance := by
  unfold Obligations.CallAndMatchingRetBalance
  intro s c u v addr argc hinv hrun hcall hstep hrunc hpath hfp hret hstepu hrunv
  have hs := hinv.sound
  have hinvc := step_keeps_inv hinv hstep
  rw [step_of_instr hrun hcall] at hstep
  rw [step_of_instr (step_next hstepu).1 hret] at hstepu
  obtain ⟨⟨hge, _⟩, _, rfl⟩ := entered_of_exec_call hstep hrunc
  obtain ⟨hslot, rfl⟩ := unwound_of_exec_ret hstepu hrunv
  have hsp := hs.sp_ge
  have hcallee : 2 ≤ (s.withFrame argc addr).fp := show 2 ≤ s.sp + 3 by omega
  obtain ⟨hinvu, _, hsame⟩ := hpath.keeps hinvc hcallee le_rfl
  have hframe : u.frame = { retPc := s.pc + 3, oldFp := s.fp, argc := argc } :=
    (frame_eq_of_same hfp hcallee hsame).trans (hs.withFrame_frame argc addr)
  have hfpu : u.fp = s.sp + 3 := hfp
  have hindex : u.fp - 2 - u.frame.argc = s.sp - argc + 1 := by
    rw [hframe, hfpu]
    show s.sp + 3 - 2 - argc = s.sp - argc + 1
    omega
  obtain ⟨htop, hother⟩ := hinvu.sound.unwound_stack hslot
  refine ⟨hindex, congrArg Frame.oldFp hframe, congrArg Frame.retPc hframe, ?_, fun j hj => ?_⟩
  · rw [← htop, State.top_zero, ← hindex]
  · calc u.unwound.stack.read j
        = u.stack.read j := hother j (by omega)
      _ = (s.withFrame argc addr).stack.read j := hsame j (show (j : Int) ≤ s.sp + 3 by omega)
      _ = s.stack.read j := hs.withFrame_stack_other argc addr (.inl (by omega))

end Sys2Proof.Machine
end

section
/-! PROOF. The fault table (spec 60_exceptions.md R119, R122): each instruction takes the first failing check of its
row, and completes where none fails. -/

namespace Sys2Proof.Machine

/-- R122: the outcome is a next state whose status is no fault. -/
def Completes (o : Host.Outcome State Fault Refusal) : Prop :=
  ∃ t, o = .next t ∧ ∀ k fpc, t.status ≠ .faulted k fpc

/-- R119, R122: the outcome is the fault of the first check whose condition holds, or it completes. -/
def DecidedBy (s : State) (o : Host.Outcome State Fault Refusal) : List (Bool × FaultKind) → Prop
  | [] => Completes o
  | (c, k) :: rest => (c = true → o = .next (FaultedFrom k s)) ∧ (c = false → DecidedBy s o rest)

section table
variable {s : State} {o : Host.Outcome State Fault Refusal}

/-- `DecidedBy` says what the first failing check says. -/
theorem DecidedBy.first {checks : List (Bool × FaultKind)} (h : DecidedBy s o checks) :
    (∀ k, (checks.find? fun c => c.1).map (fun c => c.2) = some k → o = .next (FaultedFrom k s)) ∧
      ((checks.find? fun c => c.1).map (fun c => c.2) = none → Completes o) := by
  induction checks with
  | nil => exact ⟨nofun, fun _ => h⟩
  | cons check rest ih =>
    obtain ⟨c, k⟩ := check
    obtain ⟨hfault, hrest⟩ := h
    cases c with
    | true => exact ⟨fun k' hk => Option.some.inj hk ▸ hfault rfl, nofun⟩
    | false => exact ih (hrest rfl)

/-- R17: an outcome decided by checks is a next state. -/
theorem DecidedBy.answers {checks : List (Bool × FaultKind)} (h : DecidedBy s o checks) : ∃ t, o = .next t := by
  induction checks with
  | nil =>
    obtain ⟨t, ht, _⟩ := h
    exact ⟨t, ht⟩
  | cons check rest ih =>
    obtain ⟨c, k⟩ := check
    obtain ⟨hfault, hrest⟩ := h
    cases c with
    | true => exact ⟨_, hfault rfl⟩
    | false => exact ih (hrest rfl)

/-- One check, whose condition is `p`. -/
theorem decidedBy_cons {c : Bool} {k : FaultKind} {rest : List (Bool × FaultKind)} {p : Prop} (hc : c = true ↔ p)
    (hfault : p → o = .next (FaultedFrom k s)) (hrest : ¬p → DecidedBy s o rest) : DecidedBy s o ((c, k) :: rest) :=
  ⟨fun h => hfault (hc.mp h), fun h => hrest fun hp => Bool.false_ne_true (h.symm.trans (hc.mpr hp))⟩

/-- R48: the check of a pop. -/
theorem decidedBy_onePop {rest : List (Bool × FaultKind)}
    (hunder : s.poppable < 1 → o = .next (FaultedFrom .stackUnderflow s))
    (hrest : 1 ≤ s.poppable → DecidedBy s o rest) : DecidedBy s o (faultChecks.onePop s :: rest) :=
  decidedBy_cons decide_eq_true_iff hunder fun h => hrest (not_lt.mp h)

/-- R87: the check of a target. -/
theorem target_iff {t : Int} : faultChecks.target t s = true ↔ ¬s.inCode t :=
  decide_eq_true_iff.trans State.not_inCode_iff.symm

/-- R50: the check of a data address. -/
theorem cell_iff {a : Int} : faultChecks.cell a s = true ↔ ¬s.hasCell a := by
  rw [faultChecks.cell, decide_eq_true_iff, State.hasCell]
  omega

/-- R49: the check of a frame-relative read. -/
theorem occupied_iff {i : Int} : faultChecks.occupied i s = true ↔ i < 0 ∨ s.sp < i := decide_eq_true_iff

/-- R27: what only moves pc and sp outside the memories keeps a RUNNING engine RUNNING. -/
theorem completes_of_moves (hrun : s.status = .running) {pc sp : Int} {P : State → Prop}
    (h : ∃ t, o = .next t ∧ Moves s t pc sp ∧ P t) : Completes o := by
  obtain ⟨t, ht, ⟨_, _, _, _, hstatus, _⟩, _⟩ := h
  refine ⟨t, ht, fun k fpc hfaulted => ?_⟩
  cases (hstatus.trans hrun).symm.trans hfaulted

/-- A next state whose status is that of a RUNNING engine is no fault. -/
theorem completes_of_status {t : State} (hrun : s.status = .running) (h : o = .next t) (hstatus : t.status = s.status) :
    Completes o :=
  ⟨t, h, fun _ _ hfaulted => nomatch (hstatus.trans hrun).symm.trans hfaulted⟩

end table

/-- R89: the row of JMP. -/
theorem exec_jmp_decided {s : State} (hrun : s.status = .running) (addr : Int) :
    DecidedBy s (exec (.jmp addr) s) [(faultChecks.target addr s, .invalidCodeAddress)] :=
  decidedBy_cons target_iff exec_jmp_out fun h => completes_of_moves hrun (exec_jmp_taken (not_not.mp h))

section rows
variable {s : State} (hs : s.Sound) (hrun : s.status = .running)
include hs hrun

/-- R79: the row of CONST, and the end of the rows of LOAD and LDARG. -/
theorem exec_const_decided (v : Int) :
    DecidedBy s (exec (.const v) s) [(decide (s.params.stackCapacity ≤ s.sp + 1), .stackOverflow)] := by
  have hlt := hs.sp_lt
  exact decidedBy_cons decide_eq_true_iff (fun h => exec_const_full v (by omega))
    fun h => completes_of_moves hrun (exec_const_pushes hs v (by omega))

/-- R78: the row of a binary instruction. -/
theorem IsBinary.exec_decided {i : Instr} {f : State → Int → Int → Int} (hi : IsBinary i f) :
    DecidedBy s (exec i s) (faultChecks.twoPops s) :=
  decidedBy_cons decide_eq_true_iff (fun h => hi.exec_under hs (h.trans one_lt_two)) fun _ =>
    decidedBy_cons decide_eq_true_iff (hi.exec_under hs) fun h =>
      completes_of_moves hrun (hi.exec_pushes hs (not_lt.mp h) rfl)

/-- R90, R91: the row of a conditional branch, whose target is checked where it jumps. -/
theorem IsConditional.exec_decided {i : Int → Instr} {jumps : Int → Prop} [DecidablePred jumps]
    (hi : IsConditional i jumps) (addr : Int) {c : Bool} (hc : c = true ↔ jumps (s.top 0) ∧ ¬s.inCode addr) :
    DecidedBy s (exec (i addr) s) [faultChecks.onePop s, (c, .invalidCodeAddress)] := by
  refine decidedBy_onePop (hi.exec_under addr) fun hpop =>
    decidedBy_cons hc (fun ⟨hjump, hout⟩ => hi.exec_taken_out addr hs hpop hjump hout) fun h => ?_
  by_cases hjump : jumps (s.top 0)
  · exact completes_of_moves hrun (hi.exec_taken addr hs hpop hjump (not_not.mp fun hout => h ⟨hjump, hout⟩))
  · exact completes_of_moves hrun (hi.exec_untaken addr hs hpop hjump)

/-- R94: the row of GLOAD. -/
theorem exec_gload_decided :
    DecidedBy s (exec .gload s) [faultChecks.onePop s, (faultChecks.cell (s.top 0) s, .invalidMemoryAddress)] :=
  decidedBy_onePop popsFirst_gload.exec_under fun hpop =>
    decidedBy_cons cell_iff (exec_gload_out hs hpop) fun h =>
      completes_of_moves hrun (exec_gload_reads hs hpop (not_not.mp h))

/-- R95, R98: the row of a data store. -/
theorem StoresData.exec_decided {i : Instr} {address : State → Int} (hi : StoresData i address) :
    DecidedBy s (exec i s) [faultChecks.onePop s, (faultChecks.cell (address s) s, .invalidMemoryAddress)] :=
  decidedBy_onePop hi.exec_under fun hpop =>
    decidedBy_cons cell_iff (hi.exec_out hs hpop) fun h =>
      completes_of_moves hrun (hi.exec_writes hs hpop (not_not.mp h))

/-- R96, R97: the row of a push of a frame-relative slot. -/
theorem PushesSlot.exec_decided {i : Instr} {index : State → Int} (hi : PushesSlot i index) :
    DecidedBy s (exec i s) [(faultChecks.occupied (index s) s, .invalidMemoryAddress),
      (decide (s.params.stackCapacity ≤ s.sp + 1), .stackOverflow)] := by
  refine decidedBy_cons occupied_iff hi.exec_out fun h => ?_
  obtain ⟨hge, hle⟩ := not_or.mp h
  rw [hi.exec_eq_const hs (not_lt.mp hge) (not_lt.mp hle)]
  exact exec_const_decided hs hrun _

/-- R102, R103: the row of CALL. -/
theorem exec_call_decided (addr argc : Int) :
    DecidedBy s (exec (.call addr argc) s) (faultChecks (.call addr argc) s) := by
  refine decidedBy_cons decide_eq_true_iff exec_call_bad_argc fun h => ?_
  obtain ⟨hge, hle⟩ := not_or.mp h
  rw [not_lt] at hge hle
  refine decidedBy_cons decide_eq_true_iff (fun hfull => exec_call_full hs addr hge hle (by omega)) fun hroom => ?_
  have hfree : s.sp + 3 ≤ s.params.stackCapacity - 1 := by omega
  exact decidedBy_cons target_iff (exec_call_out hs hge hle hfree) fun hin =>
    completes_of_status hrun (exec_call_enters hs hge hle hfree (not_not.mp hin)) rfl

end rows

/-- R105: the row of RET. Where its frame checks pass the invariant gives the last push its slot. -/
theorem exec_ret_decided {s : State} (hinv : s.Inv) (hrun : s.status = .running) :
    DecidedBy s (exec .ret s) (faultChecks .ret s) := by
  have hs := hinv.sound
  refine decidedBy_onePop popsFirst_ret.exec_under fun hpop => ?_
  refine decidedBy_cons decide_eq_true_iff
    (fun htop => exec_ret_top_level hs (hs.fp_legal.resolve_right (not_le.mpr htop))) fun hcallee => ?_
  have hfp : s.fp ≠ 0 := fun hzero => hcallee (by omega)
  refine decidedBy_cons decide_eq_true_iff (exec_ret_bad_argc hs hpop hfp) fun hfits => ?_
  obtain ⟨hge, hwithin⟩ := not_or.mp hfits
  have hfitsBelow : s.frame.FitsBelow s.fp := ⟨not_lt.mp hge, not_lt.mp hwithin⟩
  exact decidedBy_cons target_iff (exec_ret_out hs hpop hfp hfitsBelow) fun hin => completes_of_status hrun
    (exec_ret_unwinds hs hpop hfp hfitsBelow (not_not.mp hin) (hinv.hasSlot_retVal hfp)) rfl

/-- R119: the rows of the table, instruction by instruction. -/
theorem exec_decided {s : State} (hinv : s.Inv) (hrun : s.status = .running) (i : Instr) :
    DecidedBy s (exec i s) (faultChecks i s) := by
  have hs := hinv.sound
  cases i with
  | const v => exact exec_const_decided hs hrun v
  | add => exact isBinary_add.exec_decided hs hrun
  | sub => exact isBinary_sub.exec_decided hs hrun
  | mul => exact isBinary_mul.exec_decided hs hrun
  | lt => exact isBinary_lt.exec_decided hs hrun
  | eq => exact isBinary_eq.exec_decided hs hrun
  | jmp addr => exact exec_jmp_decided hrun addr
  | jmpt addr =>
    refine isConditional_jmpt.exec_decided hs hrun addr ?_
    rw [Bool.and_eq_true, bne_iff_ne, target_iff]
  | jmpf addr =>
    refine isConditional_jmpf.exec_decided hs hrun addr ?_
    rw [Bool.and_eq_true, beq_iff_eq, target_iff]
  | gload => exact exec_gload_decided hs hrun
  | gstore addr => exact (storesData_gstore addr).exec_decided hs hrun
  | load offset => exact (pushesSlot_load offset).exec_decided hs hrun
  | ldarg offset => exact (pushesSlot_ldarg offset).exec_decided hs hrun
  | store offset => exact (storesData_store offset).exec_decided hs hrun
  | call addr argc => exact exec_call_decided hs hrun addr argc
  | ret => exact exec_ret_decided hinv hrun
  | print =>
    exact decidedBy_onePop popsFirst_print.exec_under fun h => completes_of_status hrun (exec_print_appends hs h) rfl
  | pop =>
    exact decidedBy_onePop popsFirst_pop.exec_under fun h => completes_of_status hrun (exec_pop_discards hs h) rfl
  | halt => exact ⟨_, exec_halt s, nofun⟩

/-- Settles O33: the first failing check of an instruction's row decides its outcome. -/
theorem faultTableDecidesEveryInstruction : Obligations.FaultTableDecidesEveryInstruction := by
  unfold Obligations.FaultTableDecidesEveryInstruction
  exact fun i _ hinv hrun => (exec_decided hinv hrun i).first

end Sys2Proof.Machine
end

section
/-! PROOF. A RUNNING engine that meets the invariant always has a step (spec 70_reset_and_hazards.md R151), and its run
is its steps (R140, R144). -/

namespace Sys2Proof.Machine

/-- R44, R119: the cut-off rule takes a fault in every state within its bounds. -/
theorem State.Sound.execCutOff_answers {s : State} (hs : s.Sound) (m : Mnemonic) : ∃ t, execCutOff m s = .next t := by
  by_cases hm : popsBeforeImmediate m = true
  · rw [execCutOff_of_pop_first hm]
    by_cases h : s.poppable < 1
    · exact ⟨_, by rw [pop_fetched_under 1 h, error_bind, commit_raised]⟩
    · exact ⟨_, by rw [hs.pop_fetched 1 (not_lt.mp h), ok_bind, commit_raised]⟩
  · exact ⟨_, execCutOff_of_fetch_first (Bool.eq_false_iff.mpr hm) s⟩

/-- R151: no RUNNING engine that meets the invariant is stuck. -/
theorem exists_step_of_running {s : State} (hinv : s.Inv) (hrun : s.status = .running) : ∃ t, step s = .next t := by
  cases hdecode : fetchDecode s with
  | instr i =>
    rw [step_of_instr hrun hdecode]
    exact (exec_decided hinv hrun i).answers
  | noOpcode => exact ⟨_, step_of_noOpcode hrun hdecode⟩
  | unknownOpcode => exact ⟨_, step_of_unknownOpcode hrun hdecode⟩
  | cutOff m =>
    obtain ⟨t, ht⟩ := hinv.sound.execCutOff_answers m
    exact ⟨t, by simp only [step, hrun, hdecode, ht]⟩

/-- Settles O41: every rule a step can follow answers a next state, by the fault table or by a fault taken. -/
theorem runningEngineAlwaysSteps : Obligations.RunningEngineAlwaysSteps := by
  unfold Obligations.RunningEngineAlwaysSteps
  exact fun _ => exists_step_of_running

/-! ### Runs -/

/-- R140, R144: a run that its budget cuts short is that many steps of the machine. -/
theorem core_run_of_run_running {s : State} (hinv : s.Inv) {budget : Nat} (h : (run budget s).status = .running) :
    Host.Core.run Sys2Proof.core budget s = .next (run budget s) := by
  induction budget generalizing s with
  | zero => rfl
  | succ b ih =>
    have hrun : s.status = .running := by
      by_contra hne
      exact hne (run_of_not_running hne (b + 1) ▸ h)
    obtain ⟨t, hstep⟩ := exists_step_of_running hinv hrun
    rw [run_succ_of_next b hstep] at h ⊢
    rw [core_run_next b hstep, ih (step_keeps_inv hinv hstep) h]

/-- R140: a run ends where the steps of the machine lead to a state that is not RUNNING. -/
theorem run_of_core_run {s t : State} {k budget : Nat} (h : Host.Core.run Sys2Proof.core k s = .next t)
    (ht : t.status ≠ .running) (hle : k ≤ budget) : run budget s = t := by
  induction k generalizing s budget with
  | zero =>
    cases h
    exact run_of_not_running ht budget
  | succ k ih =>
    obtain ⟨s', hstep, hrest⟩ := core_run_succ_eq_next h
    obtain ⟨b, rfl⟩ := Nat.exists_eq_add_of_le' (Nat.one_le_of_lt hle)
    rw [run_succ_of_next b hstep]
    exact ih hrest (Nat.le_of_succ_le_succ hle)

/-- Settles O42: each step of a run is one of the machine, by induction on the budget or on the steps. -/
theorem runIsRepeatedStep : Obligations.RunIsRepeatedStep := by
  unfold Obligations.RunIsRepeatedStep
  exact ⟨fun _ _ budget _ => run_succ_of_next budget,
    fun _ _ hinv h => ⟨result_of_running h, core_run_of_run_running hinv h⟩, fun _ _ _ _ => run_of_core_run⟩

end Sys2Proof.Machine
end

section
/-! PROOF. Stack slots above sp are invisible (spec 10_state.md R35, R38 (a)): every operation has the same result in
two states that differ only there, so every instruction and every step has. -/

namespace Sys2Proof.Machine

/-- R35, R38: the second state is the first but for the stack, and the two stacks agree on every slot up to sp. -/
def Alike (s t : State) : Prop :=
  ∃ st, t = { s with stack := st } ∧ s.stack.wf ∧ st.wf ∧ ∀ i : Nat, (i : Int) ≤ s.sp → s.stack.read i = st.read i

theorem alike_of_staleEq {s t : State} (hs : s.stack.wf) (ht : t.stack.wf) (h : StaleEq s t) : Alike s t := by
  obtain ⟨pc, sp, fp, st, data, out, status, params⟩ := t
  obtain ⟨rfl, rfl, rfl, rfl, rfl, rfl, rfl, hstack⟩ := h
  exact ⟨st, rfl, hs, ht, hstack⟩

theorem Alike.staleEq {s t : State} (h : Alike s t) : StaleEq s t := by
  obtain ⟨_, rfl, _, _, hstack⟩ := h
  exact ⟨rfl, rfl, rfl, rfl, rfl, rfl, rfl, hstack⟩

/-- Two results are alike: values that `R` relates, or one and the same stop. -/
def SameResults {α : Type} (R : α → α → Prop) : Except Stop α → Except Stop α → Prop
  | .ok a, .ok b => R a b
  | .error e, .error f => e = f
  | .ok _, .error _ => False
  | .error _, .ok _ => False

/-- What follows alike results in alike ways has alike results. -/
theorem SameResults.bind {α β : Type} {R : α → α → Prop} {Q : β → β → Prop} {x y : Except Stop α}
    {f g : α → Except Stop β} (h : SameResults R x y) (hfg : ∀ a b, R a b → SameResults Q (f a) (g b)) :
    SameResults Q (x >>= f) (y >>= g) := by
  cases x <;> cases y
  case ok.ok a b => exact hfg a b h
  case error.error => exact h
  case ok.error | error.ok => exact h.elim

/-- One check in both states; what follows it may rely on it. -/
theorem sameResults_require {c : Prop} [Decidable c] (k : FaultKind) :
    SameResults (fun _ _ => c) (require c k) (require c k) := by
  by_cases h : c
  · rw [require_true k h]
    exact h
  · rw [require_false k h]
    rfl

/-- R17: alike results are committed, or their fault taken, alike. -/
theorem SameResults.commit {s t : State} {x y : Except Stop State} (hst : Alike s t) (h : SameResults Alike x y) :
    OutcomeStaleEq (commit s x) (commit t y) := by
  cases x <;> cases y
  case ok.ok => exact Alike.staleEq h
  case error.error e f =>
    obtain rfl : e = f := h
    obtain ⟨_, rfl, _, _, hstack⟩ := hst
    cases e with
    | raised k => exact ⟨rfl, rfl, rfl, rfl, rfl, rfl, rfl, hstack⟩
    | stuck f => rfl
  case ok.error | error.ok => exact h.elim

/-! ### The operations -/

section operations
variable {s t : State} (h : Alike s t)
include h

theorem Alike.fetched (n : Nat) : Alike (fetched n s) (fetched n t) := by
  obtain ⟨st, rfl, hs, hst, hstack⟩ := h
  exact ⟨st, rfl, hs, hst, hstack⟩

/-- R35: a slot up to sp reads alike. -/
theorem Alike.slot {i : Int} (hi : i ≤ s.sp) : SameResults Eq (slot i s) (slot i t) := by
  obtain ⟨st, rfl, _, _, hstack⟩ := h
  by_cases hslot : s.hasSlot i
  · rw [slot_of_hasSlot hslot, slot_of_hasSlot (s := { s with stack := st }) hslot]
    obtain ⟨hge, _⟩ := hslot
    exact hstack _ (by omega)
  · rw [Machine.slot, if_neg hslot, Machine.slot, if_neg hslot]
    rfl

/-- R48: a pop takes one word in both states. -/
theorem Alike.pop : SameResults (fun p q => p.1 = q.1 ∧ Alike p.2 q.2) (pop s) (pop t) := by
  have hslot := h.slot le_rfl
  obtain ⟨st, rfl, hs, hst, hstack⟩ := h
  refine (sameResults_require _).bind fun _ _ _ => hslot.bind fun v w hvw => ?_
  exact ⟨hvw, st, rfl, hs, hst, fun i hi => hstack i (hi.trans (Int.sub_le_self _ zero_le_one))⟩

/-- R47: a push leaves its word in the same slot of both. -/
theorem Alike.push (v : Int) : SameResults Alike (push v s) (push v t) := by
  obtain ⟨st, rfl, hs, hst, hstack⟩ := h
  refine (sameResults_require _).bind fun _ _ _ => ?_
  by_cases hslot : s.hasSlot (s.sp + 1)
  · rw [setSlot_eq_ok.mpr ⟨hslot, rfl⟩, setSlot_eq_ok (s := { s with stack := st }).mpr ⟨hslot, rfl⟩]
    refine ⟨st.write (s.sp + 1).toNat v, rfl, Memory.write_wf _ hs _ _, Memory.write_wf _ hst _ _, fun i hi => ?_⟩
    change (s.stack.write (s.sp + 1).toNat v).read i = (st.write (s.sp + 1).toNat v).read i
    replace hi : (i : Int) ≤ s.sp + 1 := hi
    by_cases htop : i = (s.sp + 1).toNat
    · rw [htop, Memory.read_write_same _ hs, Memory.read_write_same _ hst]
    · rw [Memory.read_write_other _ _ _ _ htop, Memory.read_write_other _ _ _ _ htop]
      exact hstack i (by omega)
  · rw [setSlot, if_neg hslot, setSlot, if_neg hslot]
    rfl

/-- R49: a frame-relative read is within the occupied slots. -/
theorem Alike.stackRead (i : Int) : SameResults Eq (stackRead i s) (stackRead i t) := by
  have hslot := fun hi : i ≤ s.sp => h.slot hi
  obtain ⟨st, rfl, _⟩ := h
  exact (sameResults_require _).bind fun _ _ hi => hslot hi.2

theorem Alike.memRead (a : Int) : SameResults Eq (memRead a s) (memRead a t) := by
  obtain ⟨st, rfl, _⟩ := h
  exact (sameResults_require _).bind fun _ _ _ => rfl

theorem Alike.memWrite (a v : Int) : SameResults Alike (memWrite a v s) (memWrite a v t) := by
  obtain ⟨st, rfl, hs, hst, hstack⟩ := h
  exact (sameResults_require _).bind fun _ _ _ => ⟨st, rfl, hs, hst, hstack⟩

theorem Alike.transfer (target : Int) : SameResults Alike (transfer target s) (transfer target t) := by
  obtain ⟨st, rfl, hs, hst, hstack⟩ := h
  exact (sameResults_require _).bind fun _ _ _ => ⟨st, rfl, hs, hst, hstack⟩

/-- R78: the binary protocol pops alike operands. -/
theorem Alike.binary (f : Int → Int → Int) : SameResults Alike (binary f s) (binary f t) := by
  refine h.pop.bind ?_
  rintro ⟨b, s1⟩ ⟨_, t1⟩ ⟨rfl, h1⟩
  refine h1.pop.bind ?_
  rintro ⟨a, s2⟩ ⟨_, t2⟩ ⟨rfl, h2⟩
  exact h2.push (f a b)

/-- R100, R103: a frame is pushed alike. -/
theorem Alike.pushFrame (argc : Int) : SameResults Alike (pushFrame argc s) (pushFrame argc t) := by
  obtain ⟨_, _, hfp, _⟩ := h.staleEq
  obtain ⟨hpc, _⟩ := h.staleEq
  refine (h.push argc).bind fun s1 t1 h1 => ?_
  rw [← hfp]
  refine (h1.push s.fp).bind fun s2 t2 h2 => ?_
  rw [← hpc]
  refine (h2.push s.pc).bind ?_
  rintro s3 _ ⟨st, rfl, hs, hst, hstack⟩
  exact ⟨st, rfl, hs, hst, hstack⟩

/-- R90, R91: both go on, or both jump. -/
theorem Alike.branchOn (jumps : Int → Prop) [DecidablePred jumps] (addr v : Int) :
    SameResults Alike (branchOn jumps addr v s) (branchOn jumps addr v t) := by
  by_cases hjump : jumps v
  · rw [Machine.branchOn, if_pos hjump, Machine.branchOn, if_pos hjump]
    exact h.transfer addr
  · rw [Machine.branchOn, if_neg hjump, Machine.branchOn, if_neg hjump]
    exact h

/-- R105: a frame is left alike when its words lie below sp: the caller's top is then below sp too. -/
theorem Alike.leaveFrame {fp : Int} (hfp : fp - 3 ≤ s.sp) (f : Frame) (rval : Int) :
    SameResults Alike (leaveFrame fp f rval s) (leaveFrame fp f rval t) := by
  obtain ⟨st, rfl, hs, hst, hstack⟩ := h
  refine (sameResults_require _).bind fun _ _ hfits => ?_
  have hargc := hfits.1
  have hbelow : fp - 3 - f.argc ≤ s.sp := by omega
  by_cases hin : s.inCode f.retPc
  · have hcaller : Alike { s with pc := f.retPc, sp := fp - 3 - f.argc, fp := f.oldFp }
        { s with pc := f.retPc, sp := fp - 3 - f.argc, fp := f.oldFp, stack := st } :=
      ⟨st, rfl, hs, hst, fun i hi => hstack i (hi.trans hbelow)⟩
    rw [transfer_eq_ok.mpr ⟨hin, rfl⟩, transfer_eq_ok (s := { s with stack := st }).mpr ⟨hin, rfl⟩]
    exact hcaller.push rval
  · rw [transfer_out hin, transfer_out (s := { s with stack := st }) hin]
    rfl

end operations

/-! ### The instructions -/

section instructions
variable {s t : State} (h : Alike s t)
include h

theorem Alike.exec_const (v : Int) : OutcomeStaleEq (exec (.const v) s) (exec (.const v) t) :=
  ((h.fetched 2).push v).commit h

/-- R78: the result of a binary instruction depends on its operands and the parameters. -/
theorem IsBinary.exec_alike {i : Instr} {f : State → Int → Int → Int} (hi : IsBinary i f) (hf : f s = f t) :
    OutcomeStaleEq (exec i s) (exec i t) := by
  rw [hi s, hi t, ← hf]
  exact ((h.fetched 1).binary (f s)).commit h

theorem IsConditional.exec_alike {i : Int → Instr} {jumps : Int → Prop} [DecidablePred jumps]
    (hi : IsConditional i jumps) (addr : Int) : OutcomeStaleEq (exec (i addr) s) (exec (i addr) t) := by
  rw [hi addr s, hi addr t]
  refine ((h.fetched 2).pop.bind ?_).commit h
  rintro ⟨v, s1⟩ ⟨_, t1⟩ ⟨rfl, h1⟩
  exact h1.branchOn jumps addr v

theorem PopsFirst.exec_alike {i : Instr} {n : Nat} {rest : State → Int × State → Except Stop State}
    (hi : PopsFirst i n rest) (hrest : ∀ v s1 t1, Alike s1 t1 → SameResults Alike (rest s (v, s1)) (rest t (v, t1))) :
    OutcomeStaleEq (exec i s) (exec i t) := by
  rw [hi s, hi t]
  refine ((h.fetched n).pop.bind ?_).commit h
  rintro ⟨v, s1⟩ ⟨_, t1⟩ ⟨rfl, h1⟩
  exact hrest v s1 t1 h1

theorem Alike.exec_gload : OutcomeStaleEq (exec .gload s) (exec .gload t) := by
  refine popsFirst_gload.exec_alike h fun a s1 t1 h1 => (h1.memRead (absolute a)).bind ?_
  rintro v _ rfl
  exact h1.push v

theorem StoresData.exec_alike {i : Instr} {address : State → Int} (hi : StoresData i address)
    (haddress : address s = address t) : OutcomeStaleEq (exec i s) (exec i t) :=
  PopsFirst.exec_alike h hi fun v _ _ h1 => haddress ▸ h1.memWrite (address s) v

theorem PushesSlot.exec_alike {i : Instr} {index : State → Int} (hi : PushesSlot i index) (hindex : index s = index t) :
    OutcomeStaleEq (exec i s) (exec i t) := by
  rw [hi s, hi t, ← hindex]
  refine (((h.fetched 2).stackRead (index s)).bind ?_).commit h
  rintro v _ rfl
  exact (h.fetched 2).push v

theorem Alike.exec_call (addr argc : Int) : OutcomeStaleEq (exec (.call addr argc) s) (exec (.call addr argc) t) := by
  have hframe := (h.fetched 3).pushFrame argc
  rw [Machine.exec_call, Machine.exec_call]
  obtain ⟨st, rfl, hs, hst, hstack⟩ := h
  refine ((sameResults_require _).bind fun _ _ _ => ?_).commit ⟨st, rfl, hs, hst, hstack⟩
  exact hframe.bind fun _ _ h1 => h1.transfer addr

/-- R35: the words up to sp are read alike, the top and the frame words of a callee among them. -/
theorem Alike.exec_ret (hs : s.Sound) (ht : t.Sound) : OutcomeStaleEq (exec .ret s) (exec .ret t) := by
  have halike := h
  obtain ⟨st, rfl, _, _, hstack⟩ := h
  by_cases hpop : s.poppable < 1
  · rw [popsFirst_ret.exec_under hpop, popsFirst_ret.exec_under (s := { s with stack := st }) hpop]
    exact ⟨rfl, rfl, rfl, rfl, rfl, rfl, rfl, hstack⟩
  by_cases hfp : s.fp = 0
  · rw [exec_ret_top_level hs hfp, exec_ret_top_level ht hfp]
    exact ⟨rfl, rfl, rfl, rfl, rfl, rfl, rfl, hstack⟩
  have hcallee : 2 ≤ s.fp := hs.fp_legal.resolve_left hfp
  have hfloor := hs.floor_le
  rw [floorOf_of_ne hfp] at hfloor
  have hframe : ({ s with stack := st } : State).frame = s.frame := by
    rw [State.frame, State.frame, hstack s.fp.toNat (by omega), hstack (s.fp - 1).toNat (by omega),
      hstack (s.fp - 2).toNat (by omega)]
  have htop : ({ s with stack := st } : State).top 0 = s.top 0 := by
    rw [State.top_zero, State.top_zero, hstack s.sp.toNat (by omega)]
  have hpopped : Alike (s.movedTo (s.pc + 1) (s.sp - 1))
      (({ s with stack := st } : State).movedTo (s.pc + 1) (s.sp - 1)) :=
    ⟨st, rfl, hs.stack_wf, ht.stack_wf, fun i hi => hstack i (hi.trans (Int.sub_le_self _ zero_le_one))⟩
  rw [exec_ret_callee hs (not_lt.mp hpop) hfp, exec_ret_callee ht (not_lt.mp hpop) hfp, hframe, htop]
  exact (hpopped.leaveFrame (show s.fp - 3 ≤ s.sp - 1 by omega) s.frame (s.top 0)).commit halike

/-- R35, instruction by instruction. -/
theorem Alike.exec (hs : s.Sound) (ht : t.Sound) (i : Instr) : OutcomeStaleEq (exec i s) (exec i t) := by
  obtain ⟨_, _, hfp, _, _, _, hparams, _⟩ := h.staleEq
  have hW : s.params.wordBits = t.params.wordBits := congrArg Params.wordBits hparams
  cases i with
  | const v => exact h.exec_const v
  | add => exact isBinary_add.exec_alike h (by rw [hW])
  | sub => exact isBinary_sub.exec_alike h (by rw [hW])
  | mul => exact isBinary_mul.exec_alike h (by rw [hW])
  | lt => exact isBinary_lt.exec_alike h rfl
  | eq => exact isBinary_eq.exec_alike h rfl
  | jmp addr => exact ((h.fetched 2).transfer addr).commit h
  | jmpt addr => exact isConditional_jmpt.exec_alike h addr
  | jmpf addr => exact isConditional_jmpf.exec_alike h addr
  | gload => exact h.exec_gload
  | gstore addr => exact (storesData_gstore addr).exec_alike h rfl
  | load offset => exact (pushesSlot_load offset).exec_alike h (by rw [frameUp, frameUp, hfp])
  | ldarg offset => exact (pushesSlot_ldarg offset).exec_alike h (by rw [frameArg, frameArg, hfp])
  | store offset => exact (storesData_store offset).exec_alike h (by rw [frameUp, frameUp, hfp])
  | call addr argc => exact h.exec_call addr argc
  | ret => exact h.exec_ret hs ht
  | print =>
    refine popsFirst_print.exec_alike h ?_
    rintro v s1 _ ⟨st, rfl, hs, hst, hstack⟩
    exact ⟨st, rfl, hs, hst, hstack⟩
  | pop => exact popsFirst_pop.exec_alike h fun _ _ _ h1 => h1
  | halt =>
    obtain ⟨st, rfl, _, _, hstack⟩ := h
    exact ⟨rfl, rfl, rfl, rfl, rfl, rfl, rfl, hstack⟩

/-- R44, R119: the cut-off rule pops alike, or not at all. -/
theorem Alike.execCutOff (m : Mnemonic) : OutcomeStaleEq (execCutOff m s) (execCutOff m t) := by
  by_cases hm : popsBeforeImmediate m = true
  · rw [execCutOff_of_pop_first hm, execCutOff_of_pop_first hm]
    refine ((h.fetched 1).pop.bind fun _ _ _ => ?_).commit h
    rfl
  · have hfetch := Bool.eq_false_iff.mpr hm
    obtain ⟨st, rfl, _, _, hstack⟩ := h
    rw [execCutOff_of_fetch_first hfetch, execCutOff_of_fetch_first hfetch]
    exact ⟨rfl, rfl, rfl, rfl, rfl, rfl, rfl, hstack⟩

/-- R69: the decode at pc reads no stack slot. -/
theorem Alike.fetchDecode_eq : fetchDecode s = fetchDecode t := by
  obtain ⟨st, rfl, _⟩ := h
  rfl

theorem Alike.step (hs : s.Sound) (ht : t.Sound) : OutcomeStaleEq (step s) (step t) := by
  obtain ⟨_, _, _, _, _, hstatus, _⟩ := h.staleEq
  by_cases hrun : s.status = .running
  · have hrunt : t.status = .running := hstatus ▸ hrun
    have hdecode := h.fetchDecode_eq
    simp only [Machine.step, hrun, hrunt, ← hdecode]
    cases fetchDecode s with
    | instr i => exact h.exec hs ht i
    | noOpcode => exact SameResults.commit h rfl
    | unknownOpcode => exact SameResults.commit h rfl
    | cutOff m => exact h.execCutOff m
  · rw [step_of_not_running hrun, step_of_not_running (hstatus ▸ hrun)]
    rfl

end instructions

/-- Settles O51: two such states are alike, and a step of alike states has one outcome. -/
theorem staleSlotsAreInvisible : Obligations.StaleSlotsAreInvisible := by
  unfold Obligations.StaleSlotsAreInvisible
  exact fun _ _ hs ht h => (alike_of_staleEq hs.stack_wf ht.stack_wf h).step hs ht

end Sys2Proof.Machine
end
